-- ==== Sys2Proof/Word.lean ====
section
/-! DEFINITION. The one word type that every other file uses (spec 00_scope.md R9: bit 0 is the least significant).  The
width of the counter and of every duration is the parameter `W_MS` (R7), so those are natural numbers, and every operation
the spec makes modular reduces them modulo `2 ^ W_MS` itself (log entry 4, DESIGN CHOICE, safe). -/

namespace Sys2Proof

/-- The 9-bit extended selector `xsel` of 30_encoding.md R73:
bit 8 `rst`, 7 `en`, 6 `sync`, 5 `cand`, 4 `prev`, 3 `level`, 2..0 `dclass`. -/
abbrev Selector := BitVec 9

end Sys2Proof
end

