-- ==== Sys2Proof/Syntax.lean ====
section
/-! DEFINITION. The operations of the block, one constructor for each mnemonic of spec/opcode_table.json
(30_encoding.md R74: the table has one row per pattern, 24 rows for 14 mnemonics; the patterns of one mnemonic are the
operand values of its constructor). -/

namespace Sys2Proof

/-- The six duration classes of 30_encoding.md R72. -/
inductive DClass where
  /-- At or below the marker window's lower bound. -/
  | short
  /-- In the marker window. -/
  | mark
  /-- In the one-bit window. -/
  | one
  /-- In the zero-bit window. -/
  | zero
  /-- In the frame-start gap window. -/
  | gap
  /-- In no window: the spec's `NONE`. -/
  | outside
  deriving DecidableEq, Repr

/-- The effective classes of 42_slot_classifier.md R141: what a class means to the SlotClassifier. -/
inductive EffClass where
  /-- A marker slot. -/
  | mark
  /-- A one-bit slot. -/
  | one
  /-- A zero-bit slot. -/
  | zero
  /-- In no slot window: the spec's `NONE`. -/
  | outside
  deriving DecidableEq, Repr

/-- An operation together with the selector bits that its patterns leave open.  `cand` is selector bit 5, `level`
bit 3 (equal to bit 4 in a hold), `c` the class in bits 2..0.  RESET and NOSTEP carry no bits: below their fixed bits nothing
is sampled (30_encoding.md R70, R74). -/
inductive Instr where
  /-- RESET, 70_reset_and_hazards.md R230. -/
  | reset
  /-- NOSTEP, 40_step_dispatch.md R103. -/
  | nostep
  /-- S.HOLD, 41_frame_searcher.md R121. -/
  | sHold (cand level : Bool) (c : DClass)
  /-- S.RISE, 41_frame_searcher.md R122. -/
  | sRise (c : DClass)
  /-- S.FALL.ARM, 41_frame_searcher.md R123. -/
  | sFallArm (cand : Bool)
  /-- S.FALL.DROP, 41_frame_searcher.md R124. -/
  | sFallDrop (cand : Bool) (c : DClass)
  /-- S.RISE.FOUND, 41_frame_searcher.md R125. -/
  | sRiseFound
  /-- S.RISE.MISS, 41_frame_searcher.md R126. -/
  | sRiseMiss (c : DClass)
  /-- D.HOLD, 42_slot_classifier.md R142. -/
  | dHold (cand level : Bool) (c : DClass)
  /-- D.RISE, 42_slot_classifier.md R143. -/
  | dRise (cand : Bool) (c : DClass)
  /-- D.FALL.MARK, 42_slot_classifier.md R144. -/
  | dFallMark (cand : Bool) (c : DClass)
  /-- D.FALL.ONE, 42_slot_classifier.md R145. -/
  | dFallOne (cand : Bool)
  /-- D.FALL.ZERO, 42_slot_classifier.md R146. -/
  | dFallZero (cand : Bool)
  /-- D.FALL.IND, 42_slot_classifier.md R147. -/
  | dFallInd (cand : Bool) (c : DClass)
  deriving DecidableEq, Repr

/-- The mnemonic of 30_encoding.md R74. -/
def Instr.mnemonic : Instr → String
  | .reset => "RESET"
  | .nostep => "NOSTEP"
  | .sHold _ _ _ => "S.HOLD"
  | .sRise _ => "S.RISE"
  | .sFallArm _ => "S.FALL.ARM"
  | .sFallDrop _ _ => "S.FALL.DROP"
  | .sRiseFound => "S.RISE.FOUND"
  | .sRiseMiss _ => "S.RISE.MISS"
  | .dHold _ _ _ => "D.HOLD"
  | .dRise _ _ => "D.RISE"
  | .dFallMark _ _ => "D.FALL.MARK"
  | .dFallOne _ => "D.FALL.ONE"
  | .dFallZero _ => "D.FALL.ZERO"
  | .dFallInd _ _ => "D.FALL.IND"

end Sys2Proof
end

