-- ==== Sys2Proof/WellFormed.lean ====
section
/-! DEFINITION. Which operand values the patterns of 30_encoding.md R74 admit.  `lower` is the parameter
`DEC_MARK_LOWER` of 00_scope.md R7, on which the two patterns with class SHORT in Decoding mode depend. -/

namespace Sys2Proof

/-- The class field of an operation is one its patterns list (30_encoding.md R74). -/
def WellFormed (lower : Bool) : Instr → Bool
  | .reset => true
  | .nostep => true
  | .sHold _ _ _ => true
  | .sRise _ => true
  | .sFallArm _ => true
  | .sFallDrop _ c => c != .mark
  | .sRiseFound => true
  | .sRiseMiss c => c != .gap
  | .dHold _ _ _ => true
  | .dRise _ _ => true
  | .dFallMark _ c => c == .mark || (c == .short && !lower)
  | .dFallOne _ => true
  | .dFallZero _ => true
  | .dFallInd _ c => c == .outside || c == .gap || (c == .short && lower)

end Sys2Proof
end

