-- ==== Sys2Proof/Decode.lean ====
section
/-! DEFINITION. The class codes of 30_encoding.md R72, the decoder of the selector (R73, R74, R75), its encoder, and the
opcode table as data. -/

namespace Sys2Proof

/-- The 3-bit code `dclass` of 30_encoding.md R72. -/
def DClass.code : DClass → BitVec 3
  | .short => 0b110#3
  | .mark => 0b001#3
  | .one => 0b010#3
  | .zero => 0b011#3
  | .gap => 0b101#3
  | .outside => 0b100#3

/-- The class a code stands for; the codes 0b000 and 0b111 stand for none (30_encoding.md R75 (a)). -/
def DClass.ofCode (k : BitVec 3) : Option DClass :=
  if k = 0b001#3 then some .mark
  else if k = 0b010#3 then some .one
  else if k = 0b011#3 then some .zero
  else if k = 0b100#3 then some .outside
  else if k = 0b101#3 then some .gap
  else if k = 0b110#3 then some .short
  else none

/-- `Eff(c)` of 42_slot_classifier.md R141: the effective class in Decoding mode. -/
def eff (lower : Bool) : DClass → EffClass
  | .short => if lower then .outside else .mark
  | .gap => .outside
  | .mark => .mark
  | .one => .one
  | .zero => .zero
  | .outside => .outside

/-- The rows of 30_encoding.md R74 with `sync = 0`. -/
def decodeSearching (cand prev level : Bool) (c : DClass) : Instr :=
  match prev, level with
  | false, false => .sHold cand false c
  | true, true => .sHold cand true c
  | false, true =>
    if cand then (if c = .gap then .sRiseFound else .sRiseMiss c) else .sRise c
  | true, false => if c = .mark then .sFallArm cand else .sFallDrop cand c

/-- The falling-edge rows of 30_encoding.md R74 with `sync = 1`, selected by the effective class (R141). -/
def decodeSlot (lower cand : Bool) (c : DClass) : Instr :=
  match eff lower c with
  | .mark => .dFallMark cand c
  | .one => .dFallOne cand
  | .zero => .dFallZero cand
  | .outside => .dFallInd cand c

/-- The rows of 30_encoding.md R74 with `sync = 1`. -/
def decodeDecoding (lower cand prev level : Bool) (c : DClass) : Instr :=
  match prev, level with
  | false, false => .dHold cand false c
  | true, true => .dHold cand true c
  | false, true => .dRise cand c
  | true, false => decodeSlot lower cand c

/-- The one reason the decoder rejects a selector. -/
inductive Reject where
  /-- A step selector whose class code is 0b000 or 0b111, "never produced" (30_encoding.md R75 (a)). -/
  | reservedClass (code : BitVec 3)
  deriving DecidableEq, Repr

/-- The decoder of 30_encoding.md R74 over all 512 selectors.  RESET and NOSTEP do not sample their lower bits, so
no class code is reserved there (log entry 6). -/
def decode (lower : Bool) (x : Selector) : Except Reject Instr :=
  if x.getLsbD 8 then .ok .reset
  else if x.getLsbD 7 then
    match DClass.ofCode (x.extractLsb' 0 3) with
    | none => .error (.reservedClass (x.extractLsb' 0 3))
    | some c =>
      if x.getLsbD 6 then
        .ok (decodeDecoding lower (x.getLsbD 5) (x.getLsbD 4) (x.getLsbD 3) c)
      else .ok (decodeSearching (x.getLsbD 5) (x.getLsbD 4) (x.getLsbD 3) c)
  else .ok .nostep

/-- The bits of a selector in the order of 30_encoding.md R73. -/
def packSelector (rst en sync cand prev level : Bool) (k : BitVec 3) : Selector :=
  BitVec.ofBool rst ++ BitVec.ofBool en ++ BitVec.ofBool sync ++ BitVec.ofBool cand ++
    BitVec.ofBool prev ++ BitVec.ofBool level ++ k

/-- The selector of an operation: its pattern of 30_encoding.md R74 with the operation's operands in the open
places, and 0 in the places that RESET and NOSTEP do not sample. -/
def encode : Instr → Selector
  | .reset => packSelector true false false false false false 0
  | .nostep => packSelector false false false false false false 0
  | .sHold cand level c => packSelector false true false cand level level c.code
  | .sRise c => packSelector false true false false false true c.code
  | .sFallArm cand => packSelector false true false cand true false DClass.mark.code
  | .sFallDrop cand c => packSelector false true false cand true false c.code
  | .sRiseFound => packSelector false true false true false true DClass.gap.code
  | .sRiseMiss c => packSelector false true false true false true c.code
  | .dHold cand level c => packSelector false true true cand level level c.code
  | .dRise cand c => packSelector false true true cand false true c.code
  | .dFallMark cand c => packSelector false true true cand true false c.code
  | .dFallOne cand => packSelector false true true cand true false DClass.one.code
  | .dFallZero cand => packSelector false true true cand true false DClass.zero.code
  | .dFallInd cand c => packSelector false true true cand true false c.code

/-- One row of spec/opcode_table.json. -/
structure OpRow where
  /-- The row's mnemonic. -/
  mnemonic : String
  /-- The value of the fixed bits. -/
  value : Selector
  /-- Which bits are fixed. -/
  mask : Selector
  deriving DecidableEq, Repr

/-- A selector selects a row when `(v & mask) == match` (30_encoding.md R74). -/
def OpRow.selects (r : OpRow) (x : Selector) : Bool := x &&& r.mask == r.value

/-- Rows of spec/opcode_table.json: RESET, NOSTEP and Searching (`DEC_MARK_LOWER = true`). -/
def searchingRows : List OpRow :=
  [⟨"RESET", 0x100, 0x100⟩, ⟨"NOSTEP", 0x000, 0x180⟩,
   ⟨"S.HOLD", 0x080, 0x1D8⟩, ⟨"S.HOLD", 0x098, 0x1D8⟩, ⟨"S.RISE", 0x088, 0x1F8⟩,
   ⟨"S.FALL.ARM", 0x091, 0x1DF⟩,
   ⟨"S.FALL.DROP", 0x092, 0x1DE⟩, ⟨"S.FALL.DROP", 0x094, 0x1DF⟩,
   ⟨"S.FALL.DROP", 0x095, 0x1DF⟩, ⟨"S.FALL.DROP", 0x096, 0x1DF⟩,
   ⟨"S.RISE.FOUND", 0x0AD, 0x1FF⟩,
   ⟨"S.RISE.MISS", 0x0A9, 0x1FF⟩, ⟨"S.RISE.MISS", 0x0AA, 0x1FE⟩,
   ⟨"S.RISE.MISS", 0x0AC, 0x1FF⟩, ⟨"S.RISE.MISS", 0x0AE, 0x1FF⟩]

/-- Rows of spec/opcode_table.json: Decoding (`DEC_MARK_LOWER = true`). -/
def decodingRows : List OpRow :=
  [⟨"D.HOLD", 0x0C0, 0x1D8⟩, ⟨"D.HOLD", 0x0D8, 0x1D8⟩, ⟨"D.RISE", 0x0C8, 0x1D8⟩,
   ⟨"D.FALL.MARK", 0x0D1, 0x1DF⟩, ⟨"D.FALL.ONE", 0x0D2, 0x1DF⟩, ⟨"D.FALL.ZERO", 0x0D3, 0x1DF⟩,
   ⟨"D.FALL.IND", 0x0D4, 0x1DF⟩, ⟨"D.FALL.IND", 0x0D5, 0x1DF⟩, ⟨"D.FALL.IND", 0x0D6, 0x1DF⟩]

/-- The 24 rows of spec/opcode_table.json. -/
def opcodeRows : List OpRow := searchingRows ++ decodingRows

/-- The six class codes that `WClass` produces (30_encoding.md R72). -/
def DClass.all : List DClass := [.short, .mark, .one, .zero, .gap, .outside]

/-- A selector with its class field replaced. -/
def withClass (x : Selector) (c : DClass) : Selector := (x.extractLsb' 3 6 ++ c.code : BitVec 9)

/-- The answer where a row of the table fixes no class bit and a written-out word has an unproduced code in that
place: if all six produced codes select one mnemonic, the operation with class NONE; otherwise nothing (log entry 6). -/
def decodeOpenClass (lower : Bool) (x : Selector) : Option Instr :=
  match decode lower (withClass x .outside) with
  | .error _ => none
  | .ok i =>
    if DClass.all.all (fun c =>
        match decode lower (withClass x c) with
        | .ok j => j.mnemonic == i.mnemonic
        | .error _ => false) then some i else none

/-- What a word of spec/opcode_table.json decodes to, at the default parameters of 00_scope.md R7.  The selector
has 9 bits, in one word; bits above them must be 0. -/
def decodeTableWord (_nbits w : Nat) : Option Instr :=
  if w < 512 then
    match decode true (BitVec.ofNat 9 w) with
    | .ok i => some i
    | .error _ => decodeOpenClass true (BitVec.ofNat 9 w)
  else none

end Sys2Proof
end

