-- ==== Sys2Proof/Config.lean ====
section
/-! DEFINITION. What an implementation fixes (the parameter record of 00_scope.md R7), the two fixed slot
positions, the ports of one clock edge, and the one free value of the model: the input sequence. -/

namespace Sys2Proof

/-- The parameter record `Params` of 00_scope.md R7, less `SLOT_DONE` and `SLOT_MAX`, which that rule says are
fixed (log entries 2 and 3). -/
structure Params where
  /-- `W_MS`: width in bits of `now_i`, `lastEdge` and every duration. -/
  wMs : Nat
  /-- `T_MARK_LO`: marker window lower bound, exclusive. -/
  tMarkLo : Nat
  /-- `T_MARK_HI`: marker window upper bound, exclusive. -/
  tMarkHi : Nat
  /-- `T_ONE_LO`: one-bit window lower bound, exclusive. -/
  tOneLo : Nat
  /-- `T_ONE_HI`: one-bit window upper bound, exclusive. -/
  tOneHi : Nat
  /-- `T_ZERO_LO`: zero-bit window lower bound, exclusive. -/
  tZeroLo : Nat
  /-- `T_ZERO_HI`: zero-bit window upper bound, exclusive. -/
  tZeroHi : Nat
  /-- `T_GAP_LO`: frame-start gap lower bound, exclusive. -/
  tGapLo : Nat
  /-- `T_GAP_HI`: frame-start gap upper bound, exclusive. -/
  tGapHi : Nat
  /-- `DEC_MARK_LOWER`: whether the marker window has its lower bound in Decoding mode. -/
  decMarkLower : Bool
  deriving DecidableEq, Repr

/-- The default column of 00_scope.md R7. -/
def Params.source : Params where
  wMs := 32
  tMarkLo := 150
  tMarkHi := 250
  tOneLo := 450
  tOneHi := 550
  tZeroLo := 750
  tZeroHi := 850
  tGapLo := 1750
  tGapHi := 1850
  decMarkLower := true

/-- The constraint column of 00_scope.md R7.  No operation checks it: a statement that needs the windows to be
disjoint takes it as a premise (log entry 13). -/
abbrev Params.Ordered (P : Params) : Prop :=
  P.tMarkLo < P.tMarkHi ∧ P.tMarkHi ≤ P.tOneLo ∧ P.tOneLo < P.tOneHi ∧ P.tOneHi ≤ P.tZeroLo ∧
  P.tZeroLo < P.tZeroHi ∧ P.tZeroHi ≤ P.tGapLo ∧ P.tGapLo < P.tGapHi ∧ P.tGapHi < 2 ^ P.wMs

/-- `SLOT_DONE` of 00_scope.md R7: "fixed; not meant to be varied". -/
abbrev slotDone : Nat := 50

/-- `SLOT_MAX` of 00_scope.md R7: the slot position that forces resynchronisation, fixed. -/
abbrev slotMax : Nat := 60

/-- The input ports at one clock edge (30_encoding.md R70).  `now` is what the counter shows; the block samples
its low `W_MS` bits (R82: "reduced mod 2^P.W_MS"). -/
structure PortIn where
  /-- `rst`: synchronous reset, active high. -/
  rst : Bool
  /-- `step_en`: this clock edge performs one decode step. -/
  stepEn : Bool
  /-- `level_i`: the sampled pin level. -/
  level : Bool
  /-- `now_i`: the millisecond counter. -/
  now : Nat
  deriving DecidableEq, Repr, Inhabited

/-- FREE VALUE: the input ports the environment drives at its `n`-th clock edge, "a free input sequence (an
oracle)" (00_scope.md R5).  It has no body, so a statement that holds, holds of every input sequence (log entry 1, safe). -/
opaque Config.env : Nat → PortIn

end Sys2Proof
end

