-- ==== Sys2Proof/Machine/State.lean ====
section
/-! DEFINITION. The state: the record DecoderState of 10_state.md R20, and beside it the model's own fields (the step
outputs, the parameters and the input sequence), which the spec says are no state of the block (10_state.md R32). -/

namespace Sys2Proof.Machine

/-- SlotResult, the names of 30_encoding.md R76. -/
inductive SlotResult where
  /-- No slot ended in this step. -/
  | none
  /-- A zero-bit slot. -/
  | zero
  /-- A one-bit slot. -/
  | one
  /-- Indeterminate. -/
  | indet
  /-- Marker P1, at position 10. -/
  | markP1
  /-- Marker P2, at position 20. -/
  | markP2
  /-- Marker P3, at position 30. -/
  | markP3
  /-- Marker P4, at position 40. -/
  | markP4
  /-- Marker P5, at position 50. -/
  | markP5
  deriving DecidableEq, Repr

/-- The four step outputs of 30_encoding.md R76 and R77. -/
structure Outputs where
  /-- `res_o`. -/
  res : SlotResult
  /-- `found_o`. -/
  found : Bool
  /-- `complete_o`. -/
  complete : Bool
  /-- `overflow_o`. -/
  overflow : Bool
  deriving DecidableEq, Repr

/-- The output defaults of 40_step_dispatch.md R107. -/
def Outputs.idle : Outputs := ⟨.none, false, false, false⟩

/-- The four bit fields of 10_state.md R23. -/
inductive Field where
  /-- minute, 7 cells. -/
  | bMin
  /-- hour, 6 cells. -/
  | bHr
  /-- day of year, 10 cells. -/
  | bDay
  /-- year, 8 cells. -/
  | bYr
  deriving DecidableEq, Repr

/-- The bit-field store of 10_state.md R23: four separate arrays of one-bit cells, element 0 the highest weight
(20_memory.md R55).  Their lengths stand in the type, so every value is in the store's one form (log entry 7). -/
structure BitStore where
  /-- `bMin[0..6]`. -/
  bMin : Vector Bool 7
  /-- `bHr[0..5]`. -/
  bHr : Vector Bool 6
  /-- `bDay[0..9]`. -/
  bDay : Vector Bool 10
  /-- `bYr[0..7]`. -/
  bYr : Vector Bool 8
  deriving DecidableEq, Repr

/-- All 31 cells 0. -/
def BitStore.zero : BitStore where
  bMin := Vector.replicate 7 false
  bHr := Vector.replicate 6 false
  bDay := Vector.replicate 10 false
  bYr := Vector.replicate 8 false

/-- TimePoint, 10_state.md R24: plain binary integers of 8, 9, 6 and 7 bits. -/
structure TimePoint where
  /-- Two-digit year, 0..165. -/
  year : BitVec 8
  /-- Day of year, 0..465. -/
  dayOfYear : BitVec 9
  /-- Hour, 0..45. -/
  hour : BitVec 6
  /-- Minute, 0..85. -/
  minute : BitVec 7
  deriving DecidableEq, Repr

/-- The TimePoint of zeros. -/
def TimePoint.zero : TimePoint := ⟨0, 0, 0, 0⟩

/-- DecoderState, 10_state.md R20: "exactly the following fields". -/
structure DecoderState where
  /-- R21: false = Searching, true = Decoding. -/
  sync : Bool
  /-- R22: the position of the last slot consumed. -/
  slot : BitVec 6
  /-- R23: the bit-field store. -/
  cells : BitStore
  /-- R24: the latest completed TimePoint. -/
  cur : TimePoint
  /-- R25: never written. -/
  prev : TimePoint
  /-- R26: the time of the latest rising edge, `W_MS` bits (log entry 4). -/
  lastEdge : Nat
  /-- R27: never written. -/
  status : BitVec 8
  /-- R27: never written. -/
  error : BitVec 8
  /-- R28: a marker candidate is armed. -/
  cand : Bool
  /-- R29: the level the previous step saw. -/
  prevLevel : Bool
  deriving DecidableEq, Repr

/-- The reset values of 70_reset_and_hazards.md R231: every field zero. -/
def DecoderState.reset : DecoderState where
  sync := false
  slot := 0
  cells := BitStore.zero
  cur := TimePoint.zero
  prev := TimePoint.zero
  lastEdge := 0
  status := 0
  error := 0
  cand := false
  prevLevel := false

/-- The machine: the spec's DecoderState, and four fields of the model's own. -/
structure State where
  /-- The block's whole state (10_state.md R20). -/
  dec : DecoderState
  /-- MODEL's own: the step outputs of the latest clock edge (30_encoding.md R76, R77; log entry 5). -/
  out : Outputs
  /-- MODEL's own: the parameters, fixed for the life of a run (00_scope.md R7; log entry 2). -/
  params : Params
  /-- MODEL's own: input edges the environment has presented, oldest first (log entry 1). -/
  pending : List PortIn
  /-- MODEL's own: the number of edges taken from the free input sequence (log entry 1). -/
  tick : Nat
  deriving DecidableEq, Repr

/-- The machine right after reset: DecoderState of zeros (70_reset_and_hazards.md R231), outputs as in the reset
cycle (R230), the parameters' defaults (00_scope.md R7), and no input edge taken yet. -/
def State.reset : State where
  dec := DecoderState.reset
  out := Outputs.idle
  params := Params.source
  pending := []
  tick := 0

/-- The reasons a step can fault: none.  "The block has no trap, no hang and no undefined result" (00_scope.md R6), so
no operation raises a fault; safe (log entry 15). -/
inductive Fault where
  deriving DecidableEq, Repr

/-- The reasons a step can be refused. -/
inductive Refusal where
  /-- Raised by `exec` for an operation without a meaning.  Every operation has one, so nothing raises it; safe. -/
  | notModelled (mnemonic : String)
  /-- Raised by `step` where the decoder rejects the selector because its class code is one that is "never
  produced" (30_encoding.md R75 (a)).  A step computes its class, so no state raises it; safe (log entry 6). -/
  | reservedSelector (x : Selector)
  deriving DecidableEq, Repr

/-- The three outcomes of `exec` and `step`. -/
abbrev Result := Host.Outcome State Fault Refusal

end Sys2Proof.Machine
end

