-- ==== Sys2Proof/Machine/Flags.lean ====
section
/-! DEFINITION. The results a step reports and the output ports: the marker-position table (30_encoding.md R80),
Classify (42_slot_classifier.md R141), the codes of R76 and the held outputs of R78. -/

namespace Sys2Proof.Machine

/-- `MarkerAt(n)` of 30_encoding.md R80, as the SlotResult of that marker. -/
def markerAt (n : Nat) : Option SlotResult :=
  if n = 10 then some .markP1
  else if n = 20 then some .markP2
  else if n = 30 then some .markP3
  else if n = 40 then some .markP4
  else if n = 50 then some .markP5
  else none

/-- `Classify(cc, n)` of 42_slot_classifier.md R141. -/
def classify (cc : EffClass) (n : Nat) : SlotResult :=
  match cc with
  | .mark => (markerAt n).getD .indet
  | .one => .one
  | .zero => .zero
  | .outside => .indet

/-- The code on `res_o` (30_encoding.md R76). -/
def SlotResult.code : SlotResult → BitVec 4
  | .none => 0x0#4
  | .zero => 0x1#4
  | .one => 0x2#4
  | .indet => 0x3#4
  | .markP1 => 0x9#4
  | .markP2 => 0xA#4
  | .markP3 => 0xB#4
  | .markP4 => 0xC#4
  | .markP5 => 0xD#4

/-- The port `res_o` as of the latest clock edge (30_encoding.md R76). -/
def State.resO (s : State) : BitVec 4 := s.out.res.code

/-- The port `found_o` as of the latest clock edge (30_encoding.md R77). -/
def State.foundO (s : State) : Bool := s.out.found

/-- The port `complete_o` as of the latest clock edge (30_encoding.md R77). -/
def State.completeO (s : State) : Bool := s.out.complete

/-- The port `overflow_o` as of the latest clock edge (30_encoding.md R77). -/
def State.overflowO (s : State) : Bool := s.out.overflow

/-- The held output `sync_o` (30_encoding.md R78). -/
def State.syncO (s : State) : Bool := s.dec.sync

/-- `{year, dayOfYear, hour, minute}` in 30 bits (30_encoding.md R78). -/
def TimePoint.pack (t : TimePoint) : BitVec 30 := t.year ++ t.dayOfYear ++ t.hour ++ t.minute

/-- The held output `time_o` (30_encoding.md R78). -/
def State.timeO (s : State) : BitVec 30 := s.dec.cur.pack

end Sys2Proof.Machine
end

