-- ==== Sys2Proof/Machine/Operands.lean ====
section
/-! DEFINITION. The operands of a step: the ports of the clock edge, the duration and its class, and the selector
(30_encoding.md R70 to R73). -/

namespace Sys2Proof.Machine

/-- The input ports at the clock edge about to happen: the oldest edge already presented, else the next of the free
input sequence (log entry 1). -/
def State.portIn (s : State) : PortIn :=
  match s.pending with
  | e :: _ => e
  | [] => Config.env s.tick

/-- The environment goes on to its next edge. -/
def State.takeEdge (s : State) : State :=
  match s.pending with
  | _ :: rest => { s with pending := rest }
  | [] => { s with tick := s.tick + 1 }

/-- `level_i` (30_encoding.md R70). -/
def State.levelIn (s : State) : Bool := s.portIn.level

/-- The `W_MS` bits of `now_i` (30_encoding.md R70, R82). -/
def State.nowIn (s : State) : Nat := s.portIn.now % 2 ^ s.params.wMs

/-- `(now - last) mod 2^w`, the unique such integer in `[0, 2^w)` (00_scope.md R10). -/
def subMod (w : Nat) (now last : Nat) : Nat :=
  (((now : Int) - (last : Int)) % ((2 ^ w : Nat) : Int)).toNat

/-- The duration `d` of 30_encoding.md R71. -/
def State.duration (s : State) : Nat := subMod s.params.wMs s.nowIn s.dec.lastEdge

/-- `WClass(d)` of 30_encoding.md R72. -/
def wClass (P : Params) (d : Nat) : DClass :=
  if d ≤ P.tMarkLo then .short
  else if d < P.tMarkHi then .mark
  else if P.tOneLo < d ∧ d < P.tOneHi then .one
  else if P.tZeroLo < d ∧ d < P.tZeroHi then .zero
  else if P.tGapLo < d ∧ d < P.tGapHi then .gap
  else .outside

/-- The class `c` of a step (40_step_dispatch.md R100). -/
def State.dclass (s : State) : DClass := wClass s.params s.duration

/-- The extended selector `xsel` of 30_encoding.md R73. -/
def State.selector (s : State) : Selector :=
  packSelector s.portIn.rst s.portIn.stepEn s.dec.sync s.dec.cand s.dec.prevLevel s.levelIn
    s.dclass.code

end Sys2Proof.Machine
end

