-- ==== Sys2Proof/Machine/Ops.lean ====
section
/-! DEFINITION. The shared operations: the position table and the bit-field store (20_memory.md), Assemble
(44_time_assembler.md), the end of a step (R100), the two frame events with their common forced return to Searching
(43_frame_accumulator.md, 60_exceptions.md R206), and DecodeFall (42_slot_classifier.md R148). -/

namespace Sys2Proof.Machine

/-- One row of the address map: slot address, field, index, weight (20_memory.md R51). -/
structure MapRow where
  /-- The slot address. -/
  slot : Nat
  /-- The field its cell is in. -/
  field : Field
  /-- The index of its cell in the field. -/
  index : Nat
  /-- The decimal weight of its cell. -/
  weight : Nat
  deriving DecidableEq, Repr

/-- The minute and hour rows of 20_memory.md R51. -/
def minuteHourRows : List MapRow :=
  [⟨2, .bMin, 0, 40⟩, ⟨3, .bMin, 1, 20⟩, ⟨4, .bMin, 2, 10⟩, ⟨6, .bMin, 3, 8⟩,
   ⟨7, .bMin, 4, 4⟩, ⟨8, .bMin, 5, 2⟩, ⟨9, .bMin, 6, 1⟩,
   ⟨13, .bHr, 0, 20⟩, ⟨14, .bHr, 1, 10⟩, ⟨16, .bHr, 2, 8⟩,
   ⟨17, .bHr, 3, 4⟩, ⟨18, .bHr, 4, 2⟩, ⟨19, .bHr, 5, 1⟩]

/-- The day-of-year and year rows of 20_memory.md R51. -/
def dayYearRows : List MapRow :=
  [⟨23, .bDay, 0, 200⟩, ⟨24, .bDay, 1, 100⟩, ⟨26, .bDay, 2, 80⟩, ⟨27, .bDay, 3, 40⟩,
   ⟨28, .bDay, 4, 20⟩, ⟨29, .bDay, 5, 10⟩, ⟨31, .bDay, 6, 8⟩, ⟨32, .bDay, 7, 4⟩,
   ⟨33, .bDay, 8, 2⟩, ⟨34, .bDay, 9, 1⟩,
   ⟨42, .bYr, 0, 80⟩, ⟨43, .bYr, 1, 40⟩, ⟨44, .bYr, 2, 20⟩, ⟨45, .bYr, 3, 10⟩,
   ⟨46, .bYr, 4, 8⟩, ⟨47, .bYr, 5, 4⟩, ⟨48, .bYr, 6, 2⟩, ⟨49, .bYr, 7, 1⟩]

/-- The address map of 20_memory.md R51, all 31 mapped addresses. -/
def positionTable : List MapRow := minuteHourRows ++ dayYearRows

/-- `Map(a)` of 20_memory.md R51; `none` is `unmapped`. -/
def mapSlot (a : Nat) : Option MapRow := positionTable.find? (fun r => r.slot == a)

/-- The cell at an index of a field, if the field has that index. -/
def BitStore.get (st : BitStore) (f : Field) (i : Nat) : Option Bool :=
  match f with
  | .bMin => st.bMin[i]?
  | .bHr => st.bHr[i]?
  | .bDay => st.bDay[i]?
  | .bYr => st.bYr[i]?

/-- The store with one cell written. -/
def BitStore.put (st : BitStore) (f : Field) (i : Nat) (v : Bool) : BitStore :=
  match f with
  | .bMin => { st with bMin := st.bMin.setIfInBounds i v }
  | .bHr => { st with bHr := st.bHr.setIfInBounds i v }
  | .bDay => { st with bDay := st.bDay.setIfInBounds i v }
  | .bYr => { st with bYr := st.bYr.setIfInBounds i v }

/-- `MemRead(a, 1)` of 20_memory.md R53, "defined only for mapped `a`" (log entry 11). -/
def memRead (st : BitStore) (a : Nat) : Option Bool :=
  match mapSlot a with
  | some r => st.get r.field r.index
  | none => none

/-- `MemWrite(a, 1, v)` of 20_memory.md R52: nothing is written when `a` is unmapped. -/
def memWrite (st : BitStore) (a : Nat) (v : Bool) : BitStore :=
  match mapSlot a with
  | some r => st.put r.field r.index v
  | none => st

/-- The bulk clear of 20_memory.md R54: 0 to all 31 cells. -/
def clearCells (_ : BitStore) : BitStore := BitStore.zero

/-- The weighted sum of the minute cells (44_time_assembler.md R180). -/
def minuteSum (v : Vector Bool 7) : Nat :=
  40 * v[0].toNat + 20 * v[1].toNat + 10 * v[2].toNat + 8 * v[3].toNat + 4 * v[4].toNat +
    2 * v[5].toNat + 1 * v[6].toNat

/-- The weighted sum of the hour cells (44_time_assembler.md R180). -/
def hourSum (v : Vector Bool 6) : Nat :=
  20 * v[0].toNat + 10 * v[1].toNat + 8 * v[2].toNat + 4 * v[3].toNat + 2 * v[4].toNat +
    1 * v[5].toNat

/-- The weighted sum of the day-of-year cells (44_time_assembler.md R180). -/
def daySum (v : Vector Bool 10) : Nat :=
  200 * v[0].toNat + 100 * v[1].toNat + 80 * v[2].toNat + 40 * v[3].toNat + 20 * v[4].toNat +
    10 * v[5].toNat + 8 * v[6].toNat + 4 * v[7].toNat + 2 * v[8].toNat + 1 * v[9].toNat

/-- The weighted sum of the year cells (44_time_assembler.md R180). -/
def yearSum (v : Vector Bool 8) : Nat :=
  80 * v[0].toNat + 40 * v[1].toNat + 20 * v[2].toNat + 10 * v[3].toNat + 8 * v[4].toNat +
    4 * v[5].toNat + 2 * v[6].toNat + 1 * v[7].toNat

/-- `Assemble` of 44_time_assembler.md R180; the sums fit their registers (R182). -/
def assemble (st : BitStore) : TimePoint where
  year := BitVec.ofNat 8 (yearSum st.bYr)
  dayOfYear := BitVec.ofNat 9 (daySum st.bDay)
  hour := BitVec.ofNat 6 (hourSum st.bHr)
  minute := BitVec.ofNat 7 (minuteSum st.bMin)

/-- `S.lastEdge <- now` (10_state.md R26). -/
def State.stampEdge (s : State) (d : DecoderState) : DecoderState := { d with lastEdge := s.nowIn }

/-- The end of every step: the new DecoderState with `S.prevLevel <- level` (40_step_dispatch.md R100), and the step's
outputs. -/
def State.endStep (s : State) (d : DecoderState) (o : Outputs) : State :=
  { s with dec := { d with prevLevel := s.levelIn }, out := o }

/-- The forced return to Searching that FrameComplete and FrameOverflow share: "Both signals reset `synchronized =
false`, `slotPosition = 0`" (60_exceptions.md R206). -/
def resync (d : DecoderState) : DecoderState := { d with sync := false, slot := 0, cand := false }

/-- FrameComplete, 43_frame_accumulator.md R163.  `cells` is the store at the start of the step. -/
def frameComplete (cells : BitStore) (d : DecoderState) : DecoderState :=
  { resync d with cur := assemble cells }

/-- FrameOverflow, 43_frame_accumulator.md R164. -/
def frameOverflow (d : DecoderState) : DecoderState := resync d

/-- `Accumulate(n, res)`, 43_frame_accumulator.md R161. -/
def accumulate (n : Nat) (res : SlotResult) (d : DecoderState) : DecoderState :=
  match res with
  | .one => { d with cells := memWrite d.cells n true }
  | .zero => { d with cells := memWrite d.cells n false }
  | .none => d
  | .indet => d
  | .markP1 => d
  | .markP2 => d
  | .markP3 => d
  | .markP4 => d
  | .markP5 => d

/-- `FrameCheck(n, res)`, 43_frame_accumulator.md R162: the new DecoderState and the step's outputs. -/
def frameCheck (cells : BitStore) (n : Nat) (res : SlotResult) (d : DecoderState) :
    DecoderState × Outputs :=
  if n = slotDone ∧ res = .markP5 then (frameComplete cells d, ⟨res, false, true, false⟩)
  else if slotMax ≤ n then (frameOverflow d, ⟨res, false, false, true⟩)
  else ({ d with slot := BitVec.ofNat 6 n }, ⟨res, false, false, false⟩)

/-- The post-increment position `n` of 42_slot_classifier.md R148, an integer (log entry 12). -/
def DecoderState.nextSlot (d : DecoderState) : Nat := d.slot.toNat + 1

/-- `DecodeFall(cc)`, 42_slot_classifier.md R148: the body of the four D.FALL operations. -/
def decodeFall (cc : EffClass) (s : State) : State :=
  let n := s.dec.nextSlot
  let res := classify cc n
  let r := frameCheck s.dec.cells n res (accumulate n res s.dec)
  s.endStep r.1 r.2

end Sys2Proof.Machine
end

