-- ==== Sys2Proof/Machine/Control.lean ====
section
/-! DEFINITION. RESET (70_reset_and_hazards.md R230) and NOSTEP (40_step_dispatch.md R103). -/

namespace Sys2Proof.Machine

/-- RESET: every field of DecoderState takes its reset value; outputs of the reset cycle are 0 (R230, R231).  The
parameters "are not state and are not reset" (R231), and the inputs are the environment's. -/
def execReset (s : State) : Result :=
  .next { s with dec := DecoderState.reset, out := Outputs.idle }

/-- NOSTEP: "changes no state", and `prevLevel` is not updated (R103). -/
def execNostep (s : State) : Result :=
  .next { s with out := Outputs.idle }

end Sys2Proof.Machine
end

