-- ==== Sys2Proof/Machine/FrameSearcher.lean ====
section
/-! DEFINITION. The six operations of the FrameSearcher (41_frame_searcher.md R121 to R126). -/

namespace Sys2Proof.Machine

/-- S.HOLD, 41_frame_searcher.md R121: no field but `prevLevel` is written. -/
def execSHold (s : State) : Result := .next (s.endStep s.dec Outputs.idle)

/-- S.RISE, 41_frame_searcher.md R122: the edge is recorded. -/
def execSRise (s : State) : Result := .next (s.endStep (s.stampEdge s.dec) Outputs.idle)

/-- S.FALL.ARM, 41_frame_searcher.md R123. -/
def execSFallArm (s : State) : Result :=
  .next (s.endStep { s.dec with cand := true } Outputs.idle)

/-- S.FALL.DROP, 41_frame_searcher.md R124. -/
def execSFallDrop (s : State) : Result :=
  .next (s.endStep { s.dec with cand := false } Outputs.idle)

/-- S.RISE.FOUND, 41_frame_searcher.md R125: FrameFound, with the bulk clear of 20_memory.md R54. -/
def execSRiseFound (s : State) : Result :=
  .next (s.endStep
    (s.stampEdge
      { s.dec with sync := true, slot := 1, cand := false, cells := clearCells s.dec.cells })
    { Outputs.idle with found := true })

/-- S.RISE.MISS, 41_frame_searcher.md R126: the candidate is discarded and the edge is recorded. -/
def execSRiseMiss (s : State) : Result :=
  .next (s.endStep (s.stampEdge { s.dec with cand := false }) Outputs.idle)

end Sys2Proof.Machine
end

