-- ==== Sys2Proof/Machine/SlotClassifier.lean ====
section
/-! DEFINITION. The six operations of the SlotClassifier (42_slot_classifier.md R142 to R147). -/

namespace Sys2Proof.Machine

/-- D.HOLD, 42_slot_classifier.md R142. -/
def execDHold (s : State) : Result := .next (s.endStep s.dec Outputs.idle)

/-- D.RISE, 42_slot_classifier.md R143. -/
def execDRise (s : State) : Result := .next (s.endStep (s.stampEdge s.dec) Outputs.idle)

/-- D.FALL.MARK, 42_slot_classifier.md R144. -/
def execDFallMark (s : State) : Result := .next (decodeFall .mark s)

/-- D.FALL.ONE, 42_slot_classifier.md R145. -/
def execDFallOne (s : State) : Result := .next (decodeFall .one s)

/-- D.FALL.ZERO, 42_slot_classifier.md R146. -/
def execDFallZero (s : State) : Result := .next (decodeFall .zero s)

/-- D.FALL.IND, 42_slot_classifier.md R147. -/
def execDFallInd (s : State) : Result := .next (decodeFall .outside s)

end Sys2Proof.Machine
end

