-- ==== Sys2Proof/Machine/Dispatch.lean ====
section
/-! DEFINITION. One arm per operation: each calls its meaning. -/

namespace Sys2Proof.Machine

def exec (i : Instr) (s : State) : Host.Outcome State Fault Refusal :=
  match i with
  | .reset => Sys2Proof.Machine.execReset s
  | .nostep => Sys2Proof.Machine.execNostep s
  | .sHold _ _ _ => Sys2Proof.Machine.execSHold s
  | .sRise _ => Sys2Proof.Machine.execSRise s
  | .sFallArm _ => Sys2Proof.Machine.execSFallArm s
  | .sFallDrop _ _ => Sys2Proof.Machine.execSFallDrop s
  | .sRiseFound => Sys2Proof.Machine.execSRiseFound s
  | .sRiseMiss _ => Sys2Proof.Machine.execSRiseMiss s
  | .dHold _ _ _ => Sys2Proof.Machine.execDHold s
  | .dRise _ _ => Sys2Proof.Machine.execDRise s
  | .dFallMark _ _ => Sys2Proof.Machine.execDFallMark s
  | .dFallOne _ => Sys2Proof.Machine.execDFallOne s
  | .dFallZero _ => Sys2Proof.Machine.execDFallZero s
  | .dFallInd _ _ => Sys2Proof.Machine.execDFallInd s

end Sys2Proof.Machine
end

