-- ==== Sys2Proof/Machine/Fetch.lean ====
section
/-! DEFINITION. How a step gets its operation (the selector, decoded: 30_encoding.md R73, R74), and how a state is set up
so that its next step runs a given selector. -/

namespace Sys2Proof.Machine

/-- The operation the coming clock edge selects (30_encoding.md R74; 40_step_dispatch.md R100). -/
def State.fetch (s : State) : Except Reject Instr := decode s.params.decMarkLower s.selector

/-- A duration of each class (30_encoding.md R72): the first inside its window, and for NONE the marker window's
excluded upper bound. -/
def sampleDuration (P : Params) : DClass → Nat
  | .short => P.tMarkLo
  | .mark => P.tMarkLo + 1
  | .one => P.tOneLo + 1
  | .zero => P.tZeroLo + 1
  | .gap => P.tGapLo + 1
  | .outside => P.tMarkHi

/-- The state in which the next clock edge has the selector `x`: the mode, the candidate and the previous level as
its bits say, and one input edge put first, whose time lies a duration of the class of `x` after the latest rising edge.  Where
no duration has the class code of `x` the edge has class NONE (log entry 14). -/
def State.placeSelector (s : State) (x : Selector) : State :=
  let d := { s.dec with sync := x.getLsbD 6, cand := x.getLsbD 5, prevLevel := x.getLsbD 4 }
  let c := (DClass.ofCode (x.extractLsb' 0 3)).getD .outside
  let e : PortIn :=
    { rst := x.getLsbD 8, stepEn := x.getLsbD 7, level := x.getLsbD 3,
      now := (s.dec.lastEdge + sampleDuration s.params c) % 2 ^ s.params.wMs }
  { s with dec := d, pending := e :: s.pending }

end Sys2Proof.Machine
end

