-- ==== Sys2Proof/Machine/Step.lean ====
section
/-! DEFINITION. One step: one clock edge (40_step_dispatch.md R100, 70_reset_and_hazards.md R240). -/

namespace Sys2Proof.Machine

/-- One clock edge: the selector is computed and decoded, its operation runs, and the environment goes on to its next
edge. -/
def step (s : State) : Host.Outcome State Fault Refusal :=
  match s.fetch with
  | .error _ => .refused (.reservedSelector s.selector)
  | .ok i =>
    match exec i s with
    | .next t => .next t.takeEdge
    | .fault r => .fault r
    | .refused r => .refused r

/-- The state whose next step has the selector `w` of spec/opcode_table.json.  The selector is one word of 9 bits, so
nothing above it is stored. -/
def State.withFetchWord (s : State) (_nbits w : Nat) : State := s.placeSelector (BitVec.ofNat 9 w)

end Sys2Proof.Machine
end

