-- ==== Sys2Proof/Safety.lean ====
section
/-! DEFINITION. The terms claims use: the kinds of clock edge (40_step_dispatch.md R101), the invariant of 10_state.md R31,
reachability, the step function's dispatch as R100 writes it, and what it is for one input sequence to differ from another by
holds only (R105). -/

namespace Sys2Proof.Machine

/-- The coming clock edge performs a decode step: `rst == 0` and `step_en == 1` (40_step_dispatch.md R100). -/
def State.Stepping (s : State) : Prop := s.portIn.rst = false ∧ s.portIn.stepEn = true

/-- The coming step is a rising edge (40_step_dispatch.md R101). -/
def State.Rising (s : State) : Prop := s.Stepping ∧ s.dec.prevLevel = false ∧ s.levelIn = true

/-- The coming step is a falling edge (40_step_dispatch.md R101). -/
def State.Falling (s : State) : Prop := s.Stepping ∧ s.dec.prevLevel = true ∧ s.levelIn = false

/-- The coming step is a hold (40_step_dispatch.md R101). -/
def State.Holding (s : State) : Prop := s.Stepping ∧ s.levelIn = s.dec.prevLevel

/-- The invariants (a) to (f) of 10_state.md R31, and the width of `lastEdge` (R26). -/
structure Inv (s : State) : Prop where
  /-- R31 (a). -/
  slotLe : s.dec.slot.toNat ≤ 59
  /-- R31 (b). -/
  searching : s.dec.sync = false → s.dec.slot = 0
  /-- R31 (c). -/
  decoding : s.dec.sync = true → 1 ≤ s.dec.slot.toNat ∧ s.dec.cand = false
  /-- R31 (d). -/
  candidate : s.dec.cand = true → s.dec.sync = false ∧ s.dec.prevLevel = false
  /-- R31 (e), `prev`. -/
  prevZero : s.dec.prev = TimePoint.zero
  /-- R31 (e), `status`. -/
  statusZero : s.dec.status = 0
  /-- R31 (e), `error`. -/
  errorZero : s.dec.error = 0
  /-- R31 (f), minute. -/
  minuteLe : s.dec.cur.minute.toNat ≤ 85
  /-- R31 (f), hour. -/
  hourLe : s.dec.cur.hour.toNat ≤ 45
  /-- R31 (f), day of year. -/
  dayLe : s.dec.cur.dayOfYear.toNat ≤ 465
  /-- R31 (f), year. -/
  yearLe : s.dec.cur.year.toNat ≤ 165
  /-- R26: `lastEdge` is `W_MS` bits wide. -/
  edgeLt : s.dec.lastEdge < 2 ^ s.params.wMs

/-- While a frame is being decoded, no cell of a position still to come is 1: the cells are cleared at FrameFound and each
position is visited once (42_slot_classifier.md R146, 43_frame_accumulator.md R165). -/
def FreshCells (s : State) : Prop :=
  s.dec.sync = true → ∀ a, s.dec.slot.toNat < a → memRead s.dec.cells a ≠ some true

/-- A state "reachable from reset by any input sequence" (10_state.md R31), with any parameters. -/
inductive Reachable : State → Prop where
  /-- The block has just been reset; the parameters and the inputs to come are any. -/
  | reset (P : Params) (es : List PortIn) (n : Nat) :
      Reachable { State.reset with params := P, pending := es, tick := n }
  /-- One more clock edge. -/
  | step {s t : State} : Reachable s → step s = .next t → Reachable t

/-- The if-chain of `Step` in 40_step_dispatch.md R100, naming the operation that runs. -/
def stepDispatch (lower sync cand prevLevel level : Bool) (c : DClass) : String :=
  let rise := prevLevel == false && level == true
  let fall := prevLevel == true && level == false
  if sync == false then
    if rise && cand && c == .gap then "S.RISE.FOUND"
    else if rise && cand then "S.RISE.MISS"
    else if rise then "S.RISE"
    else if fall && c == .mark then "S.FALL.ARM"
    else if fall then "S.FALL.DROP"
    else "S.HOLD"
  else
    if rise then "D.RISE"
    else if fall then
      match eff lower c with
      | .mark => "D.FALL.MARK"
      | .one => "D.FALL.ONE"
      | .zero => "D.FALL.ZERO"
      | .outside => "D.FALL.IND"
    else "D.HOLD"

/-- The input edges less the NOSTEP edges and the holds, given the level the block last saw; RESET sets that level to
0 (40_step_dispatch.md R105, 70_reset_and_hazards.md R231). -/
def dropIdle (level : Bool) : List PortIn → List PortIn
  | [] => []
  | e :: es =>
    if e.rst then e :: dropIdle false es
    else if e.stepEn then
      if e.level = level then dropIdle level es else e :: dropIdle e.level es
    else dropIdle level es

/-- The block after a whole list of input edges, from the state `s` with nothing else pending. -/
def feed (s : State) (es : List PortIn) : Host.Outcome State Fault Refusal :=
  Sys2Proof.core.run es.length { s with pending := es }

/-- The operations that leave DecoderState as it is: the holds and NOSTEP. -/
def isIdle : Instr → Bool
  | .reset => false
  | .nostep => true
  | .sHold _ _ _ => true
  | .sRise _ => false
  | .sFallArm _ => false
  | .sFallDrop _ _ => false
  | .sRiseFound => false
  | .sRiseMiss _ => false
  | .dHold _ _ _ => true
  | .dRise _ _ => false
  | .dFallMark _ _ => false
  | .dFallOne _ => false
  | .dFallZero _ => false
  | .dFallInd _ _ => false

/-- The operations other than holds and NOSTEP that a list of input edges drives the block through, each with the
counter value it samples and the outputs it gives (40_step_dispatch.md R105). -/
def activeOps (s : State) : List PortIn → List (Instr × Nat × Outputs)
  | [] => []
  | e :: es =>
    let s' := { s with pending := e :: es }
    match s'.fetch, step s' with
    | .ok i, .next t =>
      if isIdle i then activeOps t es else (i, s'.nowIn, t.out) :: activeOps t es
    | .ok _, .fault _ => []
    | .ok _, .refused _ => []
    | .error _, _ => []

/-- The state in which every time the block knows is `k` milliseconds later. -/
def State.later (s : State) (k : Nat) : State :=
  { s with
    dec := { s.dec with lastEdge := (s.dec.lastEdge + k) % 2 ^ s.params.wMs }
    pending := s.pending.map (fun e => { e with now := e.now + k }) }

/-- How many of the first `m` edges of a run are falling edges. -/
def fallsBefore (f : Nat → State) : Nat → Nat
  | 0 => 0
  | m + 1 =>
    fallsBefore f m + (if (f m).dec.prevLevel = true ∧ (f (m + 1)).dec.prevLevel = false then 1 else 0)

end Sys2Proof.Machine
end

