-- ==== Sys2Proof/Certificates/Slice0/Obligations.lean ====
section
/-! DEFINITION. The statements for the provers.  Every statement about a state holds of every parameter record, since
the record is a field of the state (log entry 2). -/

open Sys2Proof Sys2Proof.Machine

/-! ### Encoding -/

/-- 30_encoding.md R73, R74: the decoder gives back every well-formed operation from its selector, for both values of
`DEC_MARK_LOWER` and every operand. -/
def Obligations.DecodeGivesBackEveryEncodedOperation : Prop :=
  ∀ (lower : Bool) (i : Instr), WellFormed lower i = true → decode lower (encode i) = .ok i

/-- 30_encoding.md R73, R74: what the decoder reads from a step selector is well formed and encodes to that very
selector, so that no two step selectors mean one operation with one set of operands. -/
def Obligations.StepSelectorsEncodeBack : Prop :=
  ∀ (lower : Bool) (x : Selector) (i : Instr),
    x.getLsbD 8 = false → x.getLsbD 7 = true → decode lower x = .ok i →
      WellFormed lower i = true ∧ encode i = x

/-- 30_encoding.md R74: for every selector whose class code is produced, exactly one row of spec/opcode_table.json
matches, and the decoder gives that row's mnemonic. -/
def Obligations.EverySelectorMatchesExactlyOneRow : Prop :=
  ∀ x : Selector, DClass.ofCode (x.extractLsb' 0 3) ≠ none →
    ∃ r i, opcodeRows.filter (fun r => r.selects x) = [r] ∧ decode true x = .ok i ∧
      i.mnemonic = r.mnemonic

/-- 30_encoding.md R75 (a): the codes 0b000 and 0b111 are never produced, and a step selector is refused exactly when
its class code is one of them. -/
def Obligations.ReservedClassCodesAreRefused : Prop :=
  (∀ (P : Params) (d : Nat), (wClass P d).code ≠ 0b000#3 ∧ (wClass P d).code ≠ 0b111#3) ∧
  ∀ (lower : Bool) (x : Selector), x.getLsbD 8 = false → x.getLsbD 7 = true →
    ((∃ r, decode lower x = .error r) ↔
      x.extractLsb' 0 3 = 0b000#3 ∨ x.extractLsb' 0 3 = 0b111#3)

/-- A few selectors of 95_test_vectors.md, written out bit by bit, decode to the operations listed there. -/
def Obligations.WrittenOutSelectorsDecode : Prop :=
  decode true 0b100000000#9 = .ok .reset ∧
  decode true 0b000000000#9 = .ok .nostep ∧
  decode true 0b010010001#9 = .ok (.sFallArm false) ∧
  decode true 0b010101101#9 = .ok .sRiseFound ∧
  decode true 0b011010010#9 = .ok (.dFallOne false) ∧
  decode true 0b011010110#9 = .ok (.dFallInd false .short) ∧
  decode false 0b011010110#9 = .ok (.dFallMark false .short)

/-! ### The step -/

/-- 40_step_dispatch.md R100: a step runs the operation its selector decodes to, and then the environment goes on to
its next edge. -/
def Obligations.StepRunsTheSelectedOperation : Prop :=
  ∀ (s t : State) (i : Instr), decode s.params.decMarkLower s.selector = .ok i →
    exec i s = .next t →
      step s = .next t.takeEdge ∧ t.takeEdge.dec = t.dec ∧ t.takeEdge.out = t.out ∧
        t.takeEdge.params = t.params

/-- 40_step_dispatch.md R106: the step is total; it never faults, blocks or fails to return, from any state record
whatever. -/
def Obligations.EveryStepAnswersANextState : Prop :=
  ∀ s : State, ∃ t, step s = .next t

/-- 40_step_dispatch.md R100 against 30_encoding.md R74: the operation that the selector table selects is the one that
the if-chain of `Step` reaches, from every state and for every parameter record. -/
def Obligations.SelectorTableAgreesWithTheStepFunction : Prop :=
  ∀ s : State, s.Stepping →
    ∃ i, s.fetch = .ok i ∧ WellFormed s.params.decMarkLower i = true ∧
      i.mnemonic =
        stepDispatch s.params.decMarkLower s.dec.sync s.dec.cand s.dec.prevLevel s.levelIn s.dclass

/-- 40_step_dispatch.md R100 and 00_scope.md R7: no operation changes the parameters, or the inputs still to come;
a step takes exactly one edge. -/
def Obligations.StepsKeepTheParametersAndTakeOneEdge : Prop :=
  ∀ (s t : State), step s = .next t →
    t.params = s.params ∧ t.pending = s.takeEdge.pending ∧ t.tick = s.takeEdge.tick

/-- The model's own (log entry 14): a selector placed by `withFetchWord` at the default parameters is the selector of
the next step; DecoderState changes in nothing that the selector does not hold, one edge is put before the pending ones, and
nothing else changes. -/
def Obligations.PlacedSelectorIsTheNextOne : Prop :=
  ∀ (s : State) (nbits w : Nat), s.params = Params.source → w < 512 →
    DClass.ofCode ((BitVec.ofNat 9 w).extractLsb' 0 3) ≠ none →
      (s.withFetchWord nbits w).selector = BitVec.ofNat 9 w ∧
      (s.withFetchWord nbits w).dec =
        { s.dec with
          sync := (BitVec.ofNat 9 w).getLsbD 6
          cand := (BitVec.ofNat 9 w).getLsbD 5
          prevLevel := (BitVec.ofNat 9 w).getLsbD 4 } ∧
      (s.withFetchWord nbits w).out = s.out ∧ (s.withFetchWord nbits w).params = s.params ∧
      (s.withFetchWord nbits w).tick = s.tick ∧
      ∃ e, (s.withFetchWord nbits w).pending = e :: s.pending

/-! ### Durations and their classes -/

/-- 30_encoding.md R71 (and 70_reset_and_hazards.md R236): if the latest rising edge was at the true time `T` and the
step is at `T + e`, both seen modulo `2 ^ W_MS`, the duration is `e mod 2 ^ W_MS`; it is the true elapsed time exactly when
that is less than `2 ^ W_MS`. -/
def Obligations.DurationIsTheElapsedTimeModuloTheWidth : Prop :=
  ∀ (s : State) (T e : Nat),
    s.dec.lastEdge = T % 2 ^ s.params.wMs → s.nowIn = (T + e) % 2 ^ s.params.wMs →
      s.duration = e % 2 ^ s.params.wMs ∧ (s.duration = e ↔ e < 2 ^ s.params.wMs)

/-- 30_encoding.md R72: each class is its open window, under the constraints of 00_scope.md R7; the class codes; and the
ranges at the defaults. -/
def Obligations.DurationClassesAreTheOpenWindows : Prop :=
  (∀ (P : Params) (d : Nat), P.Ordered →
    (wClass P d = .short ↔ d ≤ P.tMarkLo) ∧
    (wClass P d = .mark ↔ P.tMarkLo < d ∧ d < P.tMarkHi) ∧
    (wClass P d = .one ↔ P.tOneLo < d ∧ d < P.tOneHi) ∧
    (wClass P d = .zero ↔ P.tZeroLo < d ∧ d < P.tZeroHi) ∧
    (wClass P d = .gap ↔ P.tGapLo < d ∧ d < P.tGapHi) ∧
    (wClass P d = .outside ↔
      (P.tMarkHi ≤ d ∧ d ≤ P.tOneLo) ∨ (P.tOneHi ≤ d ∧ d ≤ P.tZeroLo) ∨
      (P.tZeroHi ≤ d ∧ d ≤ P.tGapLo) ∨ P.tGapHi ≤ d)) ∧
  (DClass.short.code = 0b110#3 ∧ DClass.mark.code = 0b001#3 ∧ DClass.one.code = 0b010#3 ∧
    DClass.zero.code = 0b011#3 ∧ DClass.gap.code = 0b101#3 ∧ DClass.outside.code = 0b100#3) ∧
  (∀ d : Nat,
    (wClass Params.source d = .short ↔ d ≤ 150) ∧
    (wClass Params.source d = .mark ↔ 151 ≤ d ∧ d ≤ 249) ∧
    (wClass Params.source d = .one ↔ 451 ≤ d ∧ d ≤ 549) ∧
    (wClass Params.source d = .zero ↔ 751 ≤ d ∧ d ≤ 849) ∧
    (wClass Params.source d = .gap ↔ 1751 ≤ d ∧ d ≤ 1849))

/-! ### The bit-field store -/

/-- 20_memory.md R50, R51, R55 (a): the address map row by row, written out from the table of R51 (slot, field, index, weight);
31 addresses are mapped and the listed 30 are not; no two addresses share a cell; the weights of the fields sum to 85, 45, 465 and
165. -/
def Obligations.ThirtyOneAddressesAreMapped : Prop :=
  (List.range 61).filterMap (fun a => (mapSlot a).map (fun r => (a, r.field, r.index, r.weight))) =
    [(2, .bMin, 0, 40), (3, .bMin, 1, 20), (4, .bMin, 2, 10), (6, .bMin, 3, 8),
      (7, .bMin, 4, 4), (8, .bMin, 5, 2), (9, .bMin, 6, 1)] ++
    [(13, .bHr, 0, 20), (14, .bHr, 1, 10), (16, .bHr, 2, 8),
      (17, .bHr, 3, 4), (18, .bHr, 4, 2), (19, .bHr, 5, 1)] ++
    [(23, .bDay, 0, 200), (24, .bDay, 1, 100), (26, .bDay, 2, 80), (27, .bDay, 3, 40), (28, .bDay, 4, 20),
      (29, .bDay, 5, 10), (31, .bDay, 6, 8), (32, .bDay, 7, 4), (33, .bDay, 8, 2), (34, .bDay, 9, 1)] ++
    [(42, .bYr, 0, 80), (43, .bYr, 1, 40), (44, .bYr, 2, 20), (45, .bYr, 3, 10),
      (46, .bYr, 4, 8), (47, .bYr, 5, 4), (48, .bYr, 6, 2), (49, .bYr, 7, 1)] ∧
  (List.range 61).countP (fun a => (mapSlot a).isSome) = 31 ∧
  (List.range 61).filter (fun a => (mapSlot a).isNone) =
    [0, 1, 5, 10, 11, 12, 15, 20, 21, 22, 25, 30, 35, 36, 37, 38, 39, 40, 41, 50, 51, 52, 53, 54,
      55, 56, 57, 58, 59, 60] ∧
  (positionTable.map fun r => (r.field, r.index)).Nodup ∧
  (∀ f w, (f, w) ∈ [(Field.bMin, 85), (Field.bHr, 45), (Field.bDay, 465), (Field.bYr, 165)] →
    ((positionTable.filter (fun r => r.field == f)).map MapRow.weight).sum = w)

/-- 20_memory.md R52: a write at a mapped address changes that address's cell and no other; a write at an unmapped
address changes nothing. -/
def Obligations.MemWriteWritesItsCellAndNoOther : Prop :=
  ∀ (st : BitStore) (a : Nat) (v : Bool),
    (mapSlot a = none → memWrite st a v = st) ∧
    (mapSlot a ≠ none → memRead (memWrite st a v) a = some v) ∧
    (∀ b, b ≠ a → memRead (memWrite st a v) b = memRead st b)

/-- 20_memory.md R50, R51, R53, R55 (a): the store is reached through its mapped addresses and nothing else; two stores that
read alike at every address are one store, and a read answers exactly at the mapped addresses; the cells of each field, index 0
first, are what the slots of its row of R51 read as, the earliest slot first. -/
def Obligations.StoreIsWhatItsAddressesRead : Prop :=
  (∀ st st' : BitStore, (∀ a, memRead st a = memRead st' a) → st = st') ∧
  (∀ (st : BitStore) (a : Nat), (memRead st a).isSome = (mapSlot a).isSome) ∧
  (∀ st : BitStore,
    [2, 3, 4, 6, 7, 8, 9].map (memRead st) = st.bMin.toList.map some ∧
    [13, 14, 16, 17, 18, 19].map (memRead st) = st.bHr.toList.map some ∧
    [23, 24, 26, 27, 28, 29, 31, 32, 33, 34].map (memRead st) = st.bDay.toList.map some ∧
    [42, 43, 44, 45, 46, 47, 48, 49].map (memRead st) = st.bYr.toList.map some)

/-! ### TimeAssembler and the held outputs -/

/-- 44_time_assembler.md R180: each member of the assembled TimePoint is the sum, over the rows of the position table
for its field, of the weight times the bit that `MemRead` gives. -/
def Obligations.AssembleIsTheSumOverThePositionTable : Prop :=
  ∀ st : BitStore,
    let total : Field → Nat := fun f =>
      ((positionTable.filter (fun r => r.field == f)).map
        (fun r => r.weight * ((memRead st r.slot).getD false).toNat)).sum
    (assemble st).minute.toNat = total .bMin ∧ (assemble st).hour.toNat = total .bHr ∧
    (assemble st).dayOfYear.toNat = total .bDay ∧ (assemble st).year.toNat = total .bYr

/-- 44_time_assembler.md R182: nothing is validated; the members reach, and never pass, 85, 45, 465 and 165, and are all
0 for a store of zeros. -/
def Obligations.AssembledMembersReachTheirMaxima : Prop :=
  (∀ st : BitStore,
    (assemble st).minute.toNat ≤ 85 ∧ (assemble st).hour.toNat ≤ 45 ∧
    (assemble st).dayOfYear.toNat ≤ 465 ∧ (assemble st).year.toNat ≤ 165) ∧
  (∃ st : BitStore, assemble st = ⟨165, 465, 45, 85⟩) ∧
  assemble BitStore.zero = ⟨0, 0, 0, 0⟩

/-- 30_encoding.md R78: `sync_o` is `S.sync`, and `time_o` holds minute in bits 6:0, hour in 12:7, dayOfYear in 21:13
and year in 29:22, so that it determines `S.cur`. -/
def Obligations.HeldOutputsShowTheState : Prop :=
  ∀ s : State, s.syncO = s.dec.sync ∧
    s.timeO.extractLsb' 0 7 = s.dec.cur.minute ∧ s.timeO.extractLsb' 7 6 = s.dec.cur.hour ∧
    s.timeO.extractLsb' 13 9 = s.dec.cur.dayOfYear ∧ s.timeO.extractLsb' 22 8 = s.dec.cur.year

/-! ### RESET and NOSTEP -/

/-- 70_reset_and_hazards.md R230, R231: `rst` selects RESET whatever else holds; it loads every field of DecoderState
with zero, gives outputs of 0, and leaves the parameters and the inputs alone. -/
def Obligations.ResetLoadsZeroIntoEveryField : Prop :=
  ∀ s : State,
    (s.fetch = .ok .reset ↔ s.portIn.rst = true) ∧
    ∃ t, exec .reset s = .next t ∧
      t.dec.sync = false ∧ t.dec.slot = 0 ∧ t.dec.cand = false ∧ t.dec.prevLevel = false ∧
      (∀ a, memRead t.dec.cells a = (mapSlot a).map (fun _ => false)) ∧
      t.dec.cur = ⟨0, 0, 0, 0⟩ ∧ t.dec.prev = ⟨0, 0, 0, 0⟩ ∧ t.dec.lastEdge = 0 ∧
      t.dec.status = 0 ∧ t.dec.error = 0 ∧
      t.resO = 0 ∧ t.foundO = false ∧ t.completeO = false ∧ t.overflowO = false ∧
      t.syncO = false ∧ t.timeO = 0 ∧
      t.params = s.params ∧ t.pending = s.pending ∧ t.tick = s.tick ∧
      t.dec = State.reset.dec

/-- 40_step_dispatch.md R103: a clock edge with `rst == 0` and `step_en == 0` changes no state, gives outputs of 0 and
leaves `sync_o` and `time_o`; so one more of them before a step is invisible. -/
def Obligations.NostepChangesNoState : Prop :=
  ∀ s : State,
    (s.fetch = .ok .nostep ↔ s.portIn.rst = false ∧ s.portIn.stepEn = false) ∧
    ∃ t, exec .nostep s = .next t ∧ t = { s with out := t.out } ∧
      t.resO = 0 ∧ t.foundO = false ∧ t.completeO = false ∧ t.overflowO = false ∧
      t.syncO = s.syncO ∧ t.timeO = s.timeO

/-! ### FrameSearcher -/

/-- 41_frame_searcher.md R121: S.HOLD runs in Searching when the level has not changed, and no field changes but
`prevLevel`, which takes the level. -/
def Obligations.SearchHoldChangesNothing : Prop :=
  (∀ s : State, (∃ cand level c, s.fetch = .ok (.sHold cand level c)) ↔
    s.dec.sync = false ∧ s.Holding) ∧
  (∀ (cand level : Bool) (c : DClass) (s : State), exec (.sHold cand level c) s =
    .next { s with dec := { s.dec with prevLevel := s.levelIn }, out := ⟨.none, false, false, false⟩ }) ∧
  (∀ s : State, s.Holding → { s.dec with prevLevel := s.levelIn } = s.dec)

/-- 41_frame_searcher.md R122: S.RISE runs in Searching at a rising edge without a candidate, whatever the duration, and
records the time. -/
def Obligations.SearchRiseRecordsTheEdge : Prop :=
  (∀ s : State, (∃ c, s.fetch = .ok (.sRise c)) ↔
    s.dec.sync = false ∧ s.dec.cand = false ∧ s.Rising) ∧
  (∀ (c : DClass) (s : State), exec (.sRise c) s =
    .next { s with
      dec := { s.dec with lastEdge := s.nowIn, prevLevel := s.levelIn }
      out := ⟨.none, false, false, false⟩ })

/-- 41_frame_searcher.md R123: S.FALL.ARM runs in Searching at a falling edge after a high phase in the marker window,
whatever the old candidate, and arms the candidate. -/
def Obligations.MarkerWidthPulseArmsTheCandidate : Prop :=
  (∀ s : State, (∃ cand, s.fetch = .ok (.sFallArm cand)) ↔
    s.dec.sync = false ∧ s.Falling ∧ s.params.tMarkLo < s.duration ∧
      s.duration < s.params.tMarkHi) ∧
  (∀ (cand : Bool) (s : State), exec (.sFallArm cand) s =
    .next { s with
      dec := { s.dec with cand := true, prevLevel := s.levelIn }
      out := ⟨.none, false, false, false⟩ })

/-- 41_frame_searcher.md R124: S.FALL.DROP runs in Searching at a falling edge after any other high phase, and drops the
candidate. -/
def Obligations.OtherPulsesDropTheCandidate : Prop :=
  (∀ s : State, (∃ cand c, s.fetch = .ok (.sFallDrop cand c)) ↔
    s.dec.sync = false ∧ s.Falling ∧
      (s.duration ≤ s.params.tMarkLo ∨ s.params.tMarkHi ≤ s.duration)) ∧
  (∀ (cand : Bool) (c : DClass) (s : State), exec (.sFallDrop cand c) s =
    .next { s with
      dec := { s.dec with cand := false, prevLevel := s.levelIn }
      out := ⟨.none, false, false, false⟩ })

/-- 41_frame_searcher.md R125, 20_memory.md R54: S.RISE.FOUND runs in Searching at a rising edge with a candidate and a gap
in the frame-start window; it enters Decoding at slot 1, records the time, clears all 31 cells and drives `found_o`. -/
def Obligations.FrameFoundEntersDecodingWithClearCells : Prop :=
  (∀ s : State, s.params.Ordered → (s.fetch = .ok .sRiseFound ↔
    s.dec.sync = false ∧ s.dec.cand = true ∧ s.Rising ∧ s.params.tGapLo < s.duration ∧
      s.duration < s.params.tGapHi)) ∧
  (∀ s : State, ∃ t, exec .sRiseFound s = .next t ∧
    t = { s with
      dec := { s.dec with
        sync := true, slot := 1, cand := false, lastEdge := s.nowIn, prevLevel := s.levelIn
        cells := t.dec.cells }
      out := ⟨.none, true, false, false⟩ } ∧
    (∀ a, memRead t.dec.cells a = (mapSlot a).map (fun _ => false)))

/-- 41_frame_searcher.md R126: S.RISE.MISS runs in Searching at a rising edge with a candidate and any other gap; it
discards the candidate and records the time. -/
def Obligations.OtherGapsDiscardTheCandidate : Prop :=
  (∀ s : State, s.params.Ordered → ((∃ c, s.fetch = .ok (.sRiseMiss c)) ↔
    s.dec.sync = false ∧ s.dec.cand = true ∧ s.Rising ∧
      (s.duration ≤ s.params.tGapLo ∨ s.params.tGapHi ≤ s.duration))) ∧
  (∀ (c : DClass) (s : State), exec (.sRiseMiss c) s =
    .next { s with
      dec := { s.dec with cand := false, lastEdge := s.nowIn, prevLevel := s.levelIn }
      out := ⟨.none, false, false, false⟩ })

/-! ### SlotClassifier and FrameAccumulator -/

/-- 42_slot_classifier.md R142: D.HOLD runs in Decoding when the level has not changed, and no state field changes. -/
def Obligations.DecodeHoldChangesNothing : Prop :=
  (∀ s : State, (∃ cand level c, s.fetch = .ok (.dHold cand level c)) ↔
    s.dec.sync = true ∧ s.Holding) ∧
  (∀ (cand level : Bool) (c : DClass) (s : State), exec (.dHold cand level c) s =
    .next { s with dec := { s.dec with prevLevel := s.levelIn }, out := ⟨.none, false, false, false⟩ }) ∧
  (∀ s : State, s.Holding → { s.dec with prevLevel := s.levelIn } = s.dec)

/-- 42_slot_classifier.md R143: D.RISE runs in Decoding at a rising edge, whatever the duration, and records the time; the
slot does not change. -/
def Obligations.DecodeRiseRecordsTheEdge : Prop :=
  (∀ s : State, (∃ cand c, s.fetch = .ok (.dRise cand c)) ↔ s.dec.sync = true ∧ s.Rising) ∧
  (∀ (cand : Bool) (c : DClass) (s : State), exec (.dRise cand c) s =
    .next { s with
      dec := { s.dec with lastEdge := s.nowIn, prevLevel := s.levelIn }
      out := ⟨.none, false, false, false⟩ })

/-- 42_slot_classifier.md R144 (with R141, R148, 43_frame_accumulator.md R162 to R164): D.FALL.MARK at the next position
`n`: P1 to P4 at 10, 20, 30, 40 and Indeterminate elsewhere, the slot consumed, no cell written; FrameComplete at 50; FrameOverflow
from 60 on; in a reachable state the cell it leaves alone holds 0. -/
def Obligations.MarkerSlotIsConsumedOrEndsTheFrame : Prop :=
  (∀ s : State, (∃ cand c, s.fetch = .ok (.dFallMark cand c)) ↔
    s.dec.sync = true ∧ s.Falling ∧
      ((s.params.tMarkLo < s.duration ∧ s.duration < s.params.tMarkHi) ∨
        (s.duration ≤ s.params.tMarkLo ∧ s.params.decMarkLower = false))) ∧
  (∀ (cand : Bool) (c : DClass) (s : State),
    let n := s.dec.slot.toNat + 1
    (n ≠ 50 → n < 60 → exec (.dFallMark cand c) s =
      .next { s with
        dec := { s.dec with slot := BitVec.ofNat 6 n, prevLevel := s.levelIn }
        out := ⟨if n = 10 then .markP1 else if n = 20 then .markP2 else if n = 30 then .markP3
          else if n = 40 then .markP4 else .indet, false, false, false⟩ }) ∧
    (n = 50 → exec (.dFallMark cand c) s =
      .next { s with
        dec := { s.dec with
          cur := assemble s.dec.cells, sync := false, slot := 0, cand := false
          prevLevel := s.levelIn }
        out := ⟨.markP5, false, true, false⟩ }) ∧
    (60 ≤ n → exec (.dFallMark cand c) s =
      .next { s with
        dec := { s.dec with sync := false, slot := 0, cand := false, prevLevel := s.levelIn }
        out := ⟨.indet, false, false, true⟩ })) ∧
  (∀ s : State, Reachable s → s.dec.sync = true →
    memRead s.dec.cells (s.dec.slot.toNat + 1) ≠ some true)

/-- 42_slot_classifier.md R145 (with R148, 43_frame_accumulator.md R161, R162, R164): D.FALL.ONE writes 1 to the cell of the
next position `n` and consumes the slot, also at 50; from 60 on it overflows, and no cell changes. -/
def Obligations.OneSlotSetsItsCell : Prop :=
  (∀ s : State, s.params.Ordered → ((∃ cand, s.fetch = .ok (.dFallOne cand)) ↔
    s.dec.sync = true ∧ s.Falling ∧ s.params.tOneLo < s.duration ∧
      s.duration < s.params.tOneHi)) ∧
  (∀ (cand : Bool) (s : State),
    let n := s.dec.slot.toNat + 1
    (n < 60 → exec (.dFallOne cand) s =
      .next { s with
        dec := { s.dec with
          cells := memWrite s.dec.cells n true, slot := BitVec.ofNat 6 n, prevLevel := s.levelIn }
        out := ⟨.one, false, false, false⟩ }) ∧
    (60 ≤ n → exec (.dFallOne cand) s =
      .next { s with
        dec := { s.dec with sync := false, slot := 0, cand := false, prevLevel := s.levelIn }
        out := ⟨.one, false, false, true⟩ }))

/-- 42_slot_classifier.md R146 (with R148, 43_frame_accumulator.md R161, R162, R164): D.FALL.ZERO writes 0 to the cell of the
next position `n` and consumes the slot, also at 50; from 60 on it overflows, and no cell changes; in a reachable state the
write of 0 never changes a cell. -/
def Obligations.ZeroSlotClearsItsCell : Prop :=
  (∀ s : State, s.params.Ordered → ((∃ cand, s.fetch = .ok (.dFallZero cand)) ↔
    s.dec.sync = true ∧ s.Falling ∧ s.params.tZeroLo < s.duration ∧
      s.duration < s.params.tZeroHi)) ∧
  (∀ (cand : Bool) (s : State),
    let n := s.dec.slot.toNat + 1
    (n < 60 → exec (.dFallZero cand) s =
      .next { s with
        dec := { s.dec with
          cells := memWrite s.dec.cells n false, slot := BitVec.ofNat 6 n, prevLevel := s.levelIn }
        out := ⟨.zero, false, false, false⟩ }) ∧
    (60 ≤ n → exec (.dFallZero cand) s =
      .next { s with
        dec := { s.dec with sync := false, slot := 0, cand := false, prevLevel := s.levelIn }
        out := ⟨.zero, false, false, true⟩ })) ∧
  (∀ s : State, Reachable s → s.dec.sync = true →
    memWrite s.dec.cells (s.dec.slot.toNat + 1) false = s.dec.cells)

/-- 42_slot_classifier.md R147, 60_exceptions.md R201: D.FALL.IND runs in Decoding at a falling edge whose duration is in no
slot window; it consumes the slot and writes no cell, also at 50; from 60 on it overflows; in a reachable state the cell it
leaves alone holds 0. -/
def Obligations.IndeterminateSlotIsConsumedWithoutAWrite : Prop :=
  (∀ s : State, s.params.Ordered → ((∃ cand c, s.fetch = .ok (.dFallInd cand c)) ↔
    s.dec.sync = true ∧ s.Falling ∧
      ((s.duration ≤ s.params.tMarkLo ∧ s.params.decMarkLower = true) ∨
        (s.params.tMarkHi ≤ s.duration ∧ s.duration ≤ s.params.tOneLo) ∨
        (s.params.tOneHi ≤ s.duration ∧ s.duration ≤ s.params.tZeroLo) ∨
        s.params.tZeroHi ≤ s.duration))) ∧
  (∀ (cand : Bool) (c : DClass) (s : State),
    let n := s.dec.slot.toNat + 1
    (n < 60 → exec (.dFallInd cand c) s =
      .next { s with
        dec := { s.dec with slot := BitVec.ofNat 6 n, prevLevel := s.levelIn }
        out := ⟨.indet, false, false, false⟩ }) ∧
    (60 ≤ n → exec (.dFallInd cand c) s =
      .next { s with
        dec := { s.dec with sync := false, slot := 0, cand := false, prevLevel := s.levelIn }
        out := ⟨.indet, false, false, true⟩ })) ∧
  (∀ s : State, Reachable s → s.dec.sync = true →
    memRead s.dec.cells (s.dec.slot.toNat + 1) ≠ some true)

/-- 42_slot_classifier.md R141: the effective class, SHORT depending on `DEC_MARK_LOWER`; the SlotResult of each effective
class at each position; and the operation a falling edge in Decoding selects by it. -/
def Obligations.EffectiveClassDecidesTheSlotResult : Prop :=
  (∀ lower, eff lower .short = (if lower then .outside else .mark) ∧ eff lower .gap = .outside ∧
    eff lower .mark = .mark ∧ eff lower .one = .one ∧ eff lower .zero = .zero ∧
    eff lower .outside = .outside) ∧
  (∀ n, classify .one n = .one ∧ classify .zero n = .zero ∧ classify .outside n = .indet ∧
    (classify .mark n = .indet ↔ n ∉ [10, 20, 30, 40, 50]) ∧
    (n ∈ [10, 20, 30, 40, 50] → (classify .mark n).code = BitVec.ofNat 4 (8 + n / 10))) ∧
  (∀ s : State, s.dec.sync = true → s.Falling → ∃ i, s.fetch = .ok i ∧
    i.mnemonic = match eff s.params.decMarkLower s.dclass with
      | .mark => "D.FALL.MARK"
      | .one => "D.FALL.ONE"
      | .zero => "D.FALL.ZERO"
      | .outside => "D.FALL.IND")

/-! ### Outputs and events -/

/-- 30_encoding.md R76: the code every operation drives on `res_o`; bit 3 is set exactly for the markers, whose number
stands in bits 2:0; and the codes that are never driven. -/
def Obligations.ResultCodesOfEveryOperation : Prop :=
  (∀ (i : Instr) (s t : State), exec i s = .next t →
    match i with
    | .reset => t.resO = 0x0
    | .nostep => t.resO = 0x0
    | .sHold _ _ _ => t.resO = 0x0
    | .sRise _ => t.resO = 0x0
    | .sFallArm _ => t.resO = 0x0
    | .sFallDrop _ _ => t.resO = 0x0
    | .sRiseFound => t.resO = 0x0
    | .sRiseMiss _ => t.resO = 0x0
    | .dHold _ _ _ => t.resO = 0x0
    | .dRise _ _ => t.resO = 0x0
    | .dFallMark _ _ =>
      t.resO =
        if s.dec.slot.toNat + 1 = 10 then 0x9 else if s.dec.slot.toNat + 1 = 20 then 0xA
        else if s.dec.slot.toNat + 1 = 30 then 0xB else if s.dec.slot.toNat + 1 = 40 then 0xC
        else if s.dec.slot.toNat + 1 = 50 then 0xD else 0x3
    | .dFallOne _ => t.resO = 0x2
    | .dFallZero _ => t.resO = 0x1
    | .dFallInd _ _ => t.resO = 0x3) ∧
  (∀ r : SlotResult, r.code ∉ [0x4, 0x5, 0x6, 0x7, 0x8, 0xE, 0xF]) ∧
  (∀ r : SlotResult, r.code.getLsbD 3 = true ↔
    r ∈ [.markP1, .markP2, .markP3, .markP4, .markP5])

/-- 30_encoding.md R77: `found_o` for S.RISE.FOUND only, `complete_o` for FrameComplete only, `overflow_o` for FrameOverflow
only; at most one is 1; and what each implies about `res_o` (the spec marks R77 as derived from R125, R162, R163, R164). -/
def Obligations.EventStrobesOfEveryStep : Prop :=
  ∀ s t : State, step s = .next t →
    (t.foundO = true ↔ s.fetch = .ok .sRiseFound) ∧
    (t.completeO = true ↔
      s.dec.sync = true ∧ s.Falling ∧ s.dec.slot.toNat + 1 = 50 ∧
        eff s.params.decMarkLower s.dclass = .mark) ∧
    (t.overflowO = true ↔ s.dec.sync = true ∧ s.Falling ∧ 60 ≤ s.dec.slot.toNat + 1) ∧
    ¬(t.foundO = true ∧ t.completeO = true) ∧ ¬(t.foundO = true ∧ t.overflowO = true) ∧
    ¬(t.completeO = true ∧ t.overflowO = true) ∧
    (t.completeO = true → t.resO = 0xD) ∧
    (t.overflowO = true → t.resO ∈ [0x1, 0x2, 0x3]) ∧
    (t.foundO = true → t.resO = 0x0)

/-- 60_exceptions.md R206: what FrameComplete and FrameOverflow change, field by field. -/
def Obligations.BothFrameEndsForceSearching : Prop :=
  ∀ s t : State, step s = .next t → (t.completeO = true ∨ t.overflowO = true) →
    t.dec.sync = false ∧ t.dec.slot = 0 ∧ t.dec.cand = false ∧ t.dec.prevLevel = false ∧
    t.dec.prev = s.dec.prev ∧ t.dec.status = s.dec.status ∧ t.dec.error = s.dec.error ∧
    t.dec.cells = s.dec.cells ∧ t.dec.lastEdge = s.dec.lastEdge ∧
    (t.completeO = true → t.dec.cur = assemble s.dec.cells) ∧
    (t.overflowO = true → t.dec.cur = s.dec.cur)

/-! ### Invariants and frames of the step -/

/-- The invariant of 10_state.md R31 holds right after reset. -/
def Obligations.ResetSatisfiesTheInvariant : Prop :=
  Inv State.reset ∧ FreshCells State.reset

/-- Every step, from every state with the invariant of 10_state.md R31 (the spec's own derivation), gives a state with
it. -/
def Obligations.EveryStepKeepsTheInvariant : Prop :=
  ∀ s t : State, Inv s → step s = .next t → Inv t

/-- 10_state.md R31: (a) to (f) hold in every state reachable from reset by any input sequence, and `slot` becomes 0
only by RESET, FrameComplete or FrameOverflow (the spec marks R31 as its own derivation from the operations' rules). -/
def Obligations.ReachableStatesSatisfyTheInvariant : Prop :=
  (∀ s : State, Reachable s → Inv s) ∧
  (∀ s t : State, Reachable s → step s = .next t → s.dec.slot ≠ 0 →
    (t.dec.slot = 0 ↔ s.portIn.rst = true ∨ t.completeO = true ∨ t.overflowO = true))

/-- 42_slot_classifier.md R146, 43_frame_accumulator.md R165: while a frame is decoded, no cell of a position still to come
is 1; every step keeps this; so an Indeterminate or Zero slot leaves its cell 0. -/
def Obligations.CellsStillToComeStayZero : Prop :=
  (∀ s t : State, Inv s → FreshCells s → step s = .next t → FreshCells t) ∧
  (∀ s t : State, FreshCells s → s.dec.sync = true → s.Falling →
    eff s.params.decMarkLower s.dclass = .zero ∨ eff s.params.decMarkLower s.dclass = .outside →
    step s = .next t →
      memRead t.dec.cells (s.dec.slot.toNat + 1) ≠ some true ∧ t.dec.cells = s.dec.cells)

/-- 40_step_dispatch.md R104: no step writes `prev`, `status` or `error`; only FrameComplete writes `cur`; in Searching only
S.RISE.FOUND writes `slot` or a cell; no falling edge and no hold writes `lastEdge`. -/
def Obligations.WhatEveryStepLeavesUntouched : Prop :=
  ∀ s t : State, s.Stepping → step s = .next t →
    t.dec.prev = s.dec.prev ∧ t.dec.status = s.dec.status ∧ t.dec.error = s.dec.error ∧
    (t.completeO = false → t.dec.cur = s.dec.cur) ∧
    (s.dec.sync = false → t.foundO = false →
      t.dec.slot = s.dec.slot ∧ t.dec.cells = s.dec.cells) ∧
    (s.Falling ∨ s.Holding → t.dec.lastEdge = s.dec.lastEdge)

/-- 42_slot_classifier.md R149, 10_state.md R26: every rising edge, in either mode, stores the time of its step, and every
step stores the level it saw (the spec marks R149 as derived from R100, R125, R143). -/
def Obligations.EveryRisingEdgeIsRecorded : Prop :=
  ∀ s t : State, s.Stepping → step s = .next t →
    (s.Rising → t.dec.lastEdge = s.nowIn) ∧ t.dec.prevLevel = s.levelIn

/-- 40_step_dispatch.md R108: the mode transition table, with the sub-states `(cand, prevLevel)` of Searching,
of which `(1, 1)` is unreachable. -/
def Obligations.ModeTransitionTable : Prop :=
  (∀ s : State, Reachable s →
    ¬(s.dec.sync = false ∧ s.dec.cand = true ∧ s.dec.prevLevel = true)) ∧
  ∀ (s t : State) (i : Instr), Inv s → s.fetch = .ok i → exec i s = .next t →
    match i with
    | .reset => t.dec.sync = false ∧ t.dec.slot = 0
    | .nostep => t.dec = s.dec
    | .sHold _ _ _ => s.dec.sync = false ∧ t.dec = s.dec ∧ t.dec.slot = 0
    | .sRise _ => s.dec.sync = false ∧ t.dec.sync = false ∧ t.dec.slot = 0 ∧
        (s.dec.cand, s.dec.prevLevel) = (false, false) ∧
        (t.dec.cand, t.dec.prevLevel) = (false, true)
    | .sFallArm _ => s.dec.sync = false ∧ t.dec.sync = false ∧ t.dec.slot = 0 ∧
        (s.dec.cand, s.dec.prevLevel) = (false, true) ∧
        (t.dec.cand, t.dec.prevLevel) = (true, false)
    | .sFallDrop _ _ => s.dec.sync = false ∧ t.dec.sync = false ∧ t.dec.slot = 0 ∧
        (s.dec.cand, s.dec.prevLevel) = (false, true) ∧
        (t.dec.cand, t.dec.prevLevel) = (false, false)
    | .sRiseMiss _ => s.dec.sync = false ∧ t.dec.sync = false ∧ t.dec.slot = 0 ∧
        (s.dec.cand, s.dec.prevLevel) = (true, false) ∧
        (t.dec.cand, t.dec.prevLevel) = (false, true)
    | .sRiseFound => s.dec.sync = false ∧ t.dec.sync = true ∧ t.dec.slot = 1 ∧
        (s.dec.cand, s.dec.prevLevel) = (true, false) ∧ t.dec.prevLevel = true
    | .dHold _ _ _ => s.dec.sync = true ∧ t.dec.sync = true ∧ t.dec.slot = s.dec.slot
    | .dRise _ _ => s.dec.sync = true ∧ t.dec.sync = true ∧ t.dec.slot = s.dec.slot
    | .dFallMark _ _ => s.dec.sync = true ∧
        if s.dec.slot.toNat + 1 = 50 ∨ s.dec.slot.toNat + 1 = 60 then
          t.dec.sync = false ∧ t.dec.slot = 0 ∧ (t.dec.cand, t.dec.prevLevel) = (false, false)
        else t.dec.sync = true ∧ t.dec.slot.toNat = s.dec.slot.toNat + 1
    | .dFallOne _ => s.dec.sync = true ∧
        if s.dec.slot.toNat + 1 = 60 then
          t.dec.sync = false ∧ t.dec.slot = 0 ∧ (t.dec.cand, t.dec.prevLevel) = (false, false)
        else t.dec.sync = true ∧ t.dec.slot.toNat = s.dec.slot.toNat + 1
    | .dFallZero _ => s.dec.sync = true ∧
        if s.dec.slot.toNat + 1 = 60 then
          t.dec.sync = false ∧ t.dec.slot = 0 ∧ (t.dec.cand, t.dec.prevLevel) = (false, false)
        else t.dec.sync = true ∧ t.dec.slot.toNat = s.dec.slot.toNat + 1
    | .dFallInd _ _ => s.dec.sync = true ∧
        if s.dec.slot.toNat + 1 = 60 then
          t.dec.sync = false ∧ t.dec.slot = 0 ∧ (t.dec.cand, t.dec.prevLevel) = (false, false)
        else t.dec.sync = true ∧ t.dec.slot.toNat = s.dec.slot.toNat + 1

/-! ### Whole runs -/

/-- 40_step_dispatch.md R105: a step depends on nothing but DecoderState, the parameters, the level and the time; and taking
the holds and the NOSTEP edges out of an input sequence leaves the same other operations, with the same operands and outputs, and
the same final DecoderState (the spec marks R105 as derived from R100, R121, R142). -/
def Obligations.HoldsAndNostepsAreInvisible : Prop :=
  (∀ s t s' : State, s.dec = s'.dec → s.params = s'.params → s.Stepping → s'.Stepping →
    s.levelIn = s'.levelIn → s.nowIn = s'.nowIn → step s = .next t →
      ∃ t', step s' = .next t' ∧ t'.dec = t.dec ∧ t'.out = t.out) ∧
  (∀ (s t : State) (es : List PortIn), feed s es = .next t →
    (∃ u, feed s (dropIdle s.dec.prevLevel es) = .next u ∧ u.dec = t.dec) ∧
    activeOps s (dropIdle s.dec.prevLevel es) = activeOps s es)

/-- 30_encoding.md R71, 40_step_dispatch.md R105 ("decode correctness depends only on timestamp deltas"): shifting every time
of an input sequence without RESET, and the recorded edge, by one amount shifts the recorded edge of the final state by that amount
and changes nothing else. -/
def Obligations.OnlyTimeDifferencesMatter : Prop :=
  ∀ (s t : State) (es : List PortIn) (k : Nat), (∀ e ∈ es, e.rst = false) →
    feed s es = .next t →
      feed (s.later k) (es.map (fun e => { e with now := e.now + k })) = .next (t.later k)

/-- 10_state.md R30, 43_frame_accumulator.md R166, 60_exceptions.md R202: along any run that stays in Decoding, the slot
position grows by exactly the number of falling edges, and there are at most 58 of them; so a frame ends by the 59th falling edge after
FrameFound at the latest (the spec marks R166 as derived from R125, R148, R162). -/
def Obligations.SlotsCountFallingEdges : Prop :=
  ∀ (f : Nat → State) (m : Nat), Inv (f 0) →
    (∀ j, j < m → step (f j) = .next (f (j + 1))) → (∀ j, j ≤ m → (f j).dec.sync = true) →
      (f m).dec.slot.toNat = (f 0).dec.slot.toNat + fallsBefore f m ∧ fallsBefore f m ≤ 58

/-- 70_reset_and_hazards.md R232: in plain search with the pin low (as after RESET, FrameComplete and FrameOverflow) the
stored edge time influences nothing: with any other value the step drives the same outputs, and the next states are equal, or differ in that
value alone and are again in plain search with the pin low (the spec marks R232 as derived from R100, R121, R122). -/
def Obligations.StaleEdgeTimeInfluencesNothing : Prop :=
  ∀ (s t : State) (L : Nat), s.dec.sync = false → s.dec.cand = false →
    s.dec.prevLevel = false → step s = .next t →
      ∃ u, step { s with dec := { s.dec with lastEdge := L } } = .next u ∧ u.out = t.out ∧
        (u = t ∨ (u = { t with dec := { t.dec with lastEdge := L } } ∧ t.dec.sync = false ∧
          t.dec.cand = false ∧ t.dec.prevLevel = false))
end

