-- ==== Sys2Proof/Laws/Decode.lean ====
section
/-! SUPPORT. What the decoder answers for a selector that a state computes, and which operations a step can run. -/

namespace Sys2Proof

@[simp] theorem DClass.ofCode_code (c : DClass) : DClass.ofCode c.code = some c := by
  cases c <;> rfl

/-- Decoding a packed selector with a produced class code is a choice on its bits. -/
theorem decode_packSelector (lower rst en sync cand prev level : Bool) (c : DClass) :
    decode lower (packSelector rst en sync cand prev level c.code) =
      .ok (if rst then .reset else if en then
        (if sync then decodeDecoding lower cand prev level c
          else decodeSearching cand prev level c) else .nostep) := by
  cases rst <;> cases en <;> cases sync <;> cases cand <;> cases prev <;> cases level <;>
    cases c <;> rfl

end Sys2Proof

namespace Sys2Proof.Machine

/-- The operation a state selects, as a choice on its fields and its ports. -/
theorem fetch_eq (s : State) :
    s.fetch = .ok (if s.portIn.rst then .reset else if s.portIn.stepEn then
      (if s.dec.sync then
          decodeDecoding s.params.decMarkLower s.dec.cand s.dec.prevLevel s.levelIn s.dclass
        else decodeSearching s.dec.cand s.dec.prevLevel s.levelIn s.dclass) else .nostep) :=
  decode_packSelector ..

/-- All that a step can do: run one decoded operation and go on to the next edge. -/
theorem step_cases {s t : State} (h : step s = .next t) :
    ∃ i u, s.fetch = .ok i ∧ exec i s = .next u ∧ t = u.takeEdge := by
  unfold step at h
  split at h
  · cases h
  · rename_i i hi
    split at h
    · rename_i u hu
      cases h
      exact ⟨i, u, hi, hu, rfl⟩
    · cases h
    · cases h

/-- A step whose operation answers a next state answers it too, past the edge. -/
theorem step_of_exec {s u : State} {i : Instr} (hi : s.fetch = .ok i) (hu : exec i s = .next u) :
    step s = .next u.takeEdge := by
  unfold step
  simp only [hi, hu]

end Sys2Proof.Machine
end

