-- ==== Sys2Proof/Laws/State.lean ====
section
/-! SUPPORT. One lemma per field per update of the state, so that no later proof unfolds a record update. -/

namespace Sys2Proof.Machine

@[simp] theorem endStep_params (s : State) (d : DecoderState) (o : Outputs) :
    (s.endStep d o).params = s.params := rfl
@[simp] theorem endStep_pending (s : State) (d : DecoderState) (o : Outputs) :
    (s.endStep d o).pending = s.pending := rfl
@[simp] theorem endStep_tick (s : State) (d : DecoderState) (o : Outputs) :
    (s.endStep d o).tick = s.tick := rfl
@[simp] theorem endStep_out (s : State) (d : DecoderState) (o : Outputs) :
    (s.endStep d o).out = o := rfl
@[simp] theorem endStep_dec (s : State) (d : DecoderState) (o : Outputs) :
    (s.endStep d o).dec = { d with prevLevel := s.levelIn } := rfl

@[simp] theorem stampEdge_lastEdge (s : State) (d : DecoderState) :
    (s.stampEdge d).lastEdge = s.nowIn := rfl
@[simp] theorem stampEdge_sync (s : State) (d : DecoderState) : (s.stampEdge d).sync = d.sync := rfl
@[simp] theorem stampEdge_slot (s : State) (d : DecoderState) : (s.stampEdge d).slot = d.slot := rfl
@[simp] theorem stampEdge_cells (s : State) (d : DecoderState) :
    (s.stampEdge d).cells = d.cells := rfl
@[simp] theorem stampEdge_cur (s : State) (d : DecoderState) : (s.stampEdge d).cur = d.cur := rfl
@[simp] theorem stampEdge_prev (s : State) (d : DecoderState) : (s.stampEdge d).prev = d.prev := rfl
@[simp] theorem stampEdge_status (s : State) (d : DecoderState) :
    (s.stampEdge d).status = d.status := rfl
@[simp] theorem stampEdge_error (s : State) (d : DecoderState) :
    (s.stampEdge d).error = d.error := rfl
@[simp] theorem stampEdge_cand (s : State) (d : DecoderState) : (s.stampEdge d).cand = d.cand := rfl
@[simp] theorem stampEdge_prevLevel (s : State) (d : DecoderState) :
    (s.stampEdge d).prevLevel = d.prevLevel := rfl

@[simp] theorem resync_sync (d : DecoderState) : (resync d).sync = false := rfl
@[simp] theorem resync_slot (d : DecoderState) : (resync d).slot = 0 := rfl
@[simp] theorem resync_cand (d : DecoderState) : (resync d).cand = false := rfl
@[simp] theorem resync_cells (d : DecoderState) : (resync d).cells = d.cells := rfl
@[simp] theorem resync_cur (d : DecoderState) : (resync d).cur = d.cur := rfl
@[simp] theorem resync_prev (d : DecoderState) : (resync d).prev = d.prev := rfl
@[simp] theorem resync_status (d : DecoderState) : (resync d).status = d.status := rfl
@[simp] theorem resync_error (d : DecoderState) : (resync d).error = d.error := rfl
@[simp] theorem resync_lastEdge (d : DecoderState) : (resync d).lastEdge = d.lastEdge := rfl
@[simp] theorem resync_prevLevel (d : DecoderState) : (resync d).prevLevel = d.prevLevel := rfl

/-- FrameComplete is the forced return to Searching with a new TimePoint. -/
theorem frameComplete_eq (cells : BitStore) (d : DecoderState) :
    frameComplete cells d = { resync d with cur := assemble cells } := rfl

/-- FrameOverflow is the forced return to Searching. -/
theorem frameOverflow_eq (d : DecoderState) : frameOverflow d = resync d := rfl

@[simp] theorem takeEdge_dec (s : State) : s.takeEdge.dec = s.dec := by
  unfold State.takeEdge; split <;> rfl
@[simp] theorem takeEdge_out (s : State) : s.takeEdge.out = s.out := by
  unfold State.takeEdge; split <;> rfl
@[simp] theorem takeEdge_params (s : State) : s.takeEdge.params = s.params := by
  unfold State.takeEdge; split <;> rfl

/-- Taking an edge that is pending removes it from the list. -/
theorem takeEdge_pending {s : State} {e : PortIn} {es : List PortIn} (h : s.pending = e :: es) :
    s.takeEdge = { s with pending := es } := by
  unfold State.takeEdge; rw [h]

/-- The ports at the coming edge are the oldest pending edge. -/
theorem portIn_pending {s : State} {e : PortIn} {es : List PortIn} (h : s.pending = e :: es) :
    s.portIn = e := by
  unfold State.portIn; rw [h]

/-- The sampled counter fits its `W_MS` bits. -/
theorem nowIn_lt (s : State) : s.nowIn < 2 ^ s.params.wMs :=
  Nat.mod_lt _ (Nat.two_pow_pos _)

@[simp] theorem reset_dec : State.reset.dec = DecoderState.reset := rfl
@[simp] theorem reset_params : State.reset.params = Params.source := rfl

end Sys2Proof.Machine
end

