-- ==== Sys2Proof/Laws/Ops.lean ====
section
/-! SUPPORT. For each shared operation, one lemma that says all it can do. -/

namespace Sys2Proof.Machine

/-- `subMod` is the integer difference modulo `2^w`. -/
theorem subMod_cast (w now last : Nat) :
    (subMod w now last : Int) = ((now : Int) - last) % ((2 ^ w : Nat) : Int) := by
  have h : (0 : Int) < ((2 ^ w : Nat) : Int) := by exact_mod_cast Nat.two_pow_pos w
  exact Int.toNat_of_nonneg (Int.emod_nonneg _ h.ne')

/-- A duration fits its `W_MS` bits. -/
theorem subMod_lt (w now last : Nat) : subMod w now last < 2 ^ w := by
  have h : (0 : Int) < ((2 ^ w : Nat) : Int) := by exact_mod_cast Nat.two_pow_pos w
  have := Int.emod_lt_of_pos ((now : Int) - last) h
  rw [← subMod_cast] at this
  exact_mod_cast this

/-- How many cells a field has. -/
def fieldSize : Field → Nat
  | .bMin => 7
  | .bHr => 6
  | .bDay => 10
  | .bYr => 8

/-- A mapped address is a row of the table, and its index is one of its field's. -/
theorem mapSlot_some {a : Nat} {r : MapRow} (h : mapSlot a = some r) :
    r ∈ positionTable ∧ r.slot = a ∧ r.index < fieldSize r.field := by
  have hm := List.mem_of_find?_eq_some h
  have hs := List.find?_some h
  refine ⟨hm, by simpa using hs, ?_⟩
  have : ∀ r ∈ positionTable, r.index < fieldSize r.field := by decide
  exact this r hm

/-- Reading a field's cell after writing one. -/
theorem get_put (st : BitStore) (f g : Field) (i j : Nat) (v : Bool) (hi : i < fieldSize f) :
    (st.put f i v).get g j = if f = g ∧ i = j then some v else st.get g j := by
  by_cases h : i = j
  · subst h
    cases f <;> cases g <;>
      simp_all [BitStore.put, BitStore.get, fieldSize]
  · cases f <;> cases g <;>
      simp [BitStore.put, BitStore.get, h]

/-- Every result but One and Zero leaves the store alone. -/
theorem accumulate_eq (n : Nat) (res : SlotResult) (d : DecoderState) :
    accumulate n res d =
      if res = .one then { d with cells := memWrite d.cells n true }
      else if res = .zero then { d with cells := memWrite d.cells n false } else d := by
  cases res <;> rfl

/-- The three outcomes of the frame check. -/
theorem frameCheck_cases (cells : BitStore) (n : Nat) (res : SlotResult) (d : DecoderState) :
    (n = 50 ∧ res = .markP5 ∧
      frameCheck cells n res d = (frameComplete cells d, ⟨res, false, true, false⟩)) ∨
    (¬(n = 50 ∧ res = .markP5) ∧ 60 ≤ n ∧
      frameCheck cells n res d = (frameOverflow d, ⟨res, false, false, true⟩)) ∨
    (¬(n = 50 ∧ res = .markP5) ∧ n < 60 ∧
      frameCheck cells n res d = ({ d with slot := BitVec.ofNat 6 n }, ⟨res, false, false, false⟩)) := by
  unfold frameCheck
  by_cases h : n = slotDone ∧ res = .markP5
  · exact .inl ⟨h.1, h.2, by rw [if_pos h]⟩
  · by_cases h' : slotMax ≤ n
    · exact .inr (.inl ⟨h, h', by rw [if_neg h, if_pos h']⟩)
    · exact .inr (.inr ⟨h, by simpa using h', by rw [if_neg h, if_neg h']⟩)

/-- A marker result other than Indeterminate comes from the marker-position table. -/
theorem classify_eq_markP5 (cc : EffClass) (n : Nat) :
    classify cc n = .markP5 ↔ cc = .mark ∧ n = 50 := by
  cases cc <;> simp only [classify, reduceCtorEq, false_and, true_and]
  unfold markerAt
  repeat' split
  all_goals simp_all

/-- DecodeFall is the frame check of the accumulated slot, at the end of the step. -/
theorem decodeFall_eq (cc : EffClass) (s : State) :
    decodeFall cc s =
      s.endStep
        (frameCheck s.dec.cells s.dec.nextSlot (classify cc s.dec.nextSlot)
          (accumulate s.dec.nextSlot (classify cc s.dec.nextSlot) s.dec)).1
        (frameCheck s.dec.cells s.dec.nextSlot (classify cc s.dec.nextSlot)
          (accumulate s.dec.nextSlot (classify cc s.dec.nextSlot) s.dec)).2 := rfl

/-- The cleared store reads 0 at every mapped address. -/
theorem memRead_zero (a : Nat) : memRead BitStore.zero a = (mapSlot a).map (fun _ => false) := by
  unfold memRead
  cases hr : mapSlot a with
  | none => rfl
  | some r =>
    have hi := (mapSlot_some hr).2.2
    obtain ⟨_, f, _, _⟩ := r
    cases f <;> simp_all [BitStore.get, fieldSize, BitStore.zero]

/-- The cleared store reads 1 nowhere. -/
theorem memRead_zero_ne (a : Nat) : memRead BitStore.zero a ≠ some true := by
  rw [memRead_zero]
  cases mapSlot a <;> simp

/-- Every mapped address is below 50, so nothing is mapped from 50 on. -/
theorem mapSlot_none_of_le {a : Nat} (h : 50 ≤ a) : mapSlot a = none := by
  cases hr : mapSlot a with
  | none => rfl
  | some r =>
    obtain ⟨hm, hs, _⟩ := mapSlot_some hr
    have : ∀ r ∈ positionTable, r.slot < 50 := by decide
    have := this r hm
    omega

/-- Accumulating at an address from 50 on changes nothing. -/
theorem accumulate_of_le {n : Nat} (h : 50 ≤ n) (res : SlotResult) (d : DecoderState) :
    accumulate n res d = d := by
  rw [accumulate_eq]
  unfold memWrite
  rw [mapSlot_none_of_le h]
  simp

/-- All that DecodeFall can do: the slot is consumed, or the frame completes, or it overflows. -/
theorem decodeFall_cases (cc : EffClass) (s : State) :
    let n := s.dec.nextSlot
    let res := classify cc n
    (n = 50 ∧ cc = .mark ∧
      decodeFall cc s =
        s.endStep { resync s.dec with cur := assemble s.dec.cells } ⟨.markP5, false, true, false⟩) ∨
    (60 ≤ n ∧ decodeFall cc s = s.endStep (resync s.dec) ⟨res, false, false, true⟩) ∨
    (¬(n = 50 ∧ cc = .mark) ∧ n < 60 ∧
      decodeFall cc s =
        s.endStep { accumulate n res s.dec with slot := BitVec.ofNat 6 n }
          ⟨res, false, false, false⟩) := by
  intro n res
  rw [decodeFall_eq]
  rcases frameCheck_cases s.dec.cells n res (accumulate n res s.dec) with
    ⟨hn, hres, hf⟩ | ⟨_, hn, hf⟩ | ⟨hne, hn, hf⟩
  · refine .inl ⟨hn, ((classify_eq_markP5 cc n).1 hres).1, ?_⟩
    change s.endStep (frameCheck s.dec.cells n res (accumulate n res s.dec)).1
      (frameCheck s.dec.cells n res (accumulate n res s.dec)).2 = _
    rw [hf, accumulate_of_le (by omega), hres, frameComplete_eq]
  · refine .inr (.inl ⟨hn, ?_⟩)
    change s.endStep (frameCheck s.dec.cells n res (accumulate n res s.dec)).1
      (frameCheck s.dec.cells n res (accumulate n res s.dec)).2 = _
    rw [hf, accumulate_of_le (by omega), frameOverflow_eq]
  · refine .inr (.inr ⟨fun h => hne ⟨h.1, (classify_eq_markP5 cc n).2 ⟨h.2, h.1⟩⟩, hn, ?_⟩)
    change s.endStep (frameCheck s.dec.cells n res (accumulate n res s.dec)).1
      (frameCheck s.dec.cells n res (accumulate n res s.dec)).2 = _
    rw [hf]

/-- The next position is at least 1 and at most 64. -/
theorem nextSlot_bounds (d : DecoderState) : 1 ≤ d.nextSlot ∧ d.nextSlot ≤ 64 := by
  have := d.slot.isLt
  unfold DecoderState.nextSlot
  omega

end Sys2Proof.Machine
end

