-- ==== Sys2Proof/Laws/PerInstr.lean ====
section
/-! SUPPORT. Families of statements about every operation as syntax, one lemma per constructor. -/

namespace Sys2Proof.Laws

/-- The selector of a well-formed operation, at the default `DEC_MARK_LOWER = true`, selects a row of
spec/opcode_table.json with the operation's mnemonic (30_encoding.md R74). -/
def InTable.Statement (i : Instr) : Prop :=
  WellFormed true i = true →
    (opcodeRows.any fun r => r.selects (encode i) && r.mnemonic == i.mnemonic) = true

theorem InTable.reset : InTable.Statement .reset := by unfold InTable.Statement; decide
theorem InTable.nostep : InTable.Statement .nostep := by unfold InTable.Statement; decide
theorem InTable.sHold (cand level : Bool) (c : DClass) : InTable.Statement (.sHold cand level c) := by
  unfold InTable.Statement; cases cand <;> cases level <;> cases c <;> decide
theorem InTable.sRise (c : DClass) : InTable.Statement (.sRise c) := by
  unfold InTable.Statement; cases c <;> decide
theorem InTable.sFallArm (cand : Bool) : InTable.Statement (.sFallArm cand) := by
  unfold InTable.Statement; cases cand <;> decide
theorem InTable.sFallDrop (cand : Bool) (c : DClass) : InTable.Statement (.sFallDrop cand c) := by
  unfold InTable.Statement; cases cand <;> cases c <;> decide
theorem InTable.sRiseFound : InTable.Statement .sRiseFound := by unfold InTable.Statement; decide
theorem InTable.sRiseMiss (c : DClass) : InTable.Statement (.sRiseMiss c) := by
  unfold InTable.Statement; cases c <;> decide
theorem InTable.dHold (cand level : Bool) (c : DClass) : InTable.Statement (.dHold cand level c) := by
  unfold InTable.Statement; cases cand <;> cases level <;> cases c <;> decide
theorem InTable.dRise (cand : Bool) (c : DClass) : InTable.Statement (.dRise cand c) := by
  unfold InTable.Statement; cases cand <;> cases c <;> decide
theorem InTable.dFallMark (cand : Bool) (c : DClass) : InTable.Statement (.dFallMark cand c) := by
  unfold InTable.Statement; cases cand <;> cases c <;> decide
theorem InTable.dFallOne (cand : Bool) : InTable.Statement (.dFallOne cand) := by
  unfold InTable.Statement; cases cand <;> decide
theorem InTable.dFallZero (cand : Bool) : InTable.Statement (.dFallZero cand) := by
  unfold InTable.Statement; cases cand <;> decide
theorem InTable.dFallInd (cand : Bool) (c : DClass) : InTable.Statement (.dFallInd cand c) := by
  unfold InTable.Statement; cases cand <;> cases c <;> decide

end Sys2Proof.Laws
end

