-- ==== Sys2Proof/Laws/Step.lean ====
section
/-! SUPPORT. All that one step can do to DecoderState and the outputs, as one inductive of named cases. -/

namespace Sys2Proof.Machine

/-- What a step from `s` can leave as DecoderState and outputs. -/
inductive StepCase (s : State) : DecoderState → Outputs → Prop where
  /-- RESET. -/
  | reset : s.portIn.rst = true → StepCase s DecoderState.reset Outputs.idle
  /-- NOSTEP. -/
  | nostep : s.portIn.rst = false → s.portIn.stepEn = false → StepCase s s.dec Outputs.idle
  /-- S.HOLD or D.HOLD. -/
  | hold : s.Holding → StepCase s s.dec Outputs.idle
  /-- S.RISE. -/
  | sRise : s.Rising → s.dec.sync = false → s.dec.cand = false →
      StepCase s { s.dec with lastEdge := s.nowIn, prevLevel := true } Outputs.idle
  /-- S.FALL.ARM. -/
  | sFallArm : s.Falling → s.dec.sync = false → s.dclass = .mark →
      StepCase s { s.dec with cand := true, prevLevel := false } Outputs.idle
  /-- S.FALL.DROP. -/
  | sFallDrop : s.Falling → s.dec.sync = false → s.dclass ≠ .mark →
      StepCase s { s.dec with cand := false, prevLevel := false } Outputs.idle
  /-- S.RISE.FOUND. -/
  | sRiseFound : s.Rising → s.dec.sync = false → s.dec.cand = true → s.dclass = .gap →
      StepCase s
        { s.dec with
          sync := true, slot := 1, cells := BitStore.zero, lastEdge := s.nowIn, cand := false
          prevLevel := true }
        { Outputs.idle with found := true }
  /-- S.RISE.MISS. -/
  | sRiseMiss : s.Rising → s.dec.sync = false → s.dec.cand = true → s.dclass ≠ .gap →
      StepCase s { s.dec with lastEdge := s.nowIn, cand := false, prevLevel := true } Outputs.idle
  /-- D.RISE. -/
  | dRise : s.Rising → s.dec.sync = true →
      StepCase s { s.dec with lastEdge := s.nowIn, prevLevel := true } Outputs.idle
  /-- A D.FALL operation that consumes a slot and ends no frame. -/
  | slot (cc : EffClass) : s.Falling → s.dec.sync = true →
      eff s.params.decMarkLower s.dclass = cc → ¬(s.dec.nextSlot = 50 ∧ cc = .mark) →
      s.dec.nextSlot < 60 →
      StepCase s
        { accumulate s.dec.nextSlot (classify cc s.dec.nextSlot) s.dec with
          slot := BitVec.ofNat 6 s.dec.nextSlot, prevLevel := false }
        ⟨classify cc s.dec.nextSlot, false, false, false⟩
  /-- D.FALL.MARK with FrameComplete. -/
  | complete : s.Falling → s.dec.sync = true → eff s.params.decMarkLower s.dclass = .mark →
      s.dec.nextSlot = 50 →
      StepCase s { resync s.dec with cur := assemble s.dec.cells, prevLevel := false }
        ⟨.markP5, false, true, false⟩
  /-- A D.FALL operation with FrameOverflow. -/
  | overflow (cc : EffClass) : s.Falling → s.dec.sync = true →
      eff s.params.decMarkLower s.dclass = cc → 60 ≤ s.dec.nextSlot →
      StepCase s { resync s.dec with prevLevel := false }
        ⟨classify cc s.dec.nextSlot, false, false, true⟩

/-- What the four D.FALL operations can leave. -/
theorem stepCase_decodeFall {s : State} (cc : EffClass) (hf : s.Falling) (hs : s.dec.sync = true)
    (he : eff s.params.decMarkLower s.dclass = cc) :
    StepCase s (decodeFall cc s).dec (decodeFall cc s).out := by
  have hl := hf.2.2
  rcases decodeFall_cases cc s with ⟨hn, hc, h⟩ | ⟨hn, h⟩ | ⟨hne, hn, h⟩ <;> rw [h]
  · have := StepCase.complete hf hs (hc ▸ he) hn
    simpa [hl] using this
  · have := StepCase.overflow cc hf hs he hn
    simpa [hl] using this
  · have := StepCase.slot cc hf hs he hne hn
    simpa [hl] using this

/-- An operation of the Searching mode leaves one of the cases. -/
theorem stepCase_searching {s u : State} (hst : s.Stepping) (hs : s.dec.sync = false)
    (hu : exec (decodeSearching s.dec.cand s.dec.prevLevel s.levelIn s.dclass) s = .next u) :
    StepCase s u.dec u.out := by
  cases hp : s.dec.prevLevel <;> cases hl : s.levelIn <;>
    simp only [decodeSearching, hp, hl] at hu
  · cases hu
    simpa [hl, ← hp] using StepCase.hold (s := s) ⟨hst, by rw [hp, hl]⟩
  · have hr : s.Rising := ⟨hst, hp, hl⟩
    cases hc : s.dec.cand <;> simp only [hc, if_true, Bool.false_eq_true, if_false] at hu
    · cases hu
      simpa [hl] using StepCase.sRise hr hs hc
    · split at hu
      · rename_i hg
        cases hu
        simpa [hl, clearCells] using StepCase.sRiseFound hr hs hc hg
      · rename_i hg
        cases hu
        simpa [hl] using StepCase.sRiseMiss hr hs hc hg
  · have hf : s.Falling := ⟨hst, hp, hl⟩
    split at hu
    · rename_i hm
      cases hu
      simpa [hl] using StepCase.sFallArm hf hs hm
    · rename_i hm
      cases hu
      simpa [hl] using StepCase.sFallDrop hf hs hm
  · cases hu
    simpa [hl, ← hp] using StepCase.hold (s := s) ⟨hst, by rw [hp, hl]⟩

/-- An operation of the Decoding mode leaves one of the cases. -/
theorem stepCase_decoding {s u : State} (hst : s.Stepping) (hs : s.dec.sync = true)
    (hu : exec (decodeDecoding s.params.decMarkLower s.dec.cand s.dec.prevLevel s.levelIn s.dclass)
      s = .next u) :
    StepCase s u.dec u.out := by
  cases hp : s.dec.prevLevel <;> cases hl : s.levelIn <;>
    simp only [decodeDecoding, hp, hl] at hu
  · cases hu
    simpa [hl, ← hp] using StepCase.hold (s := s) ⟨hst, by rw [hp, hl]⟩
  · cases hu
    simpa [hl] using StepCase.dRise ⟨hst, hp, hl⟩ hs
  · have hf : s.Falling := ⟨hst, hp, hl⟩
    unfold decodeSlot at hu
    split at hu <;> rename_i he <;> cases hu
    · exact stepCase_decodeFall .mark hf hs he
    · exact stepCase_decodeFall .one hf hs he
    · exact stepCase_decodeFall .zero hf hs he
    · exact stepCase_decodeFall .outside hf hs he
  · cases hu
    simpa [hl, ← hp] using StepCase.hold (s := s) ⟨hst, by rw [hp, hl]⟩

/-- All that a step can do to DecoderState and the outputs; the parameters stay. -/
theorem step_case {s t : State} (h : step s = .next t) :
    StepCase s t.dec t.out ∧ t.params = s.params := by
  obtain ⟨i, u, hi, hu, rfl⟩ := step_cases h
  have hparams : u.params = s.params := by cases i <;> cases hu <;> rfl
  refine ⟨?_, by simpa using hparams⟩
  simp only [takeEdge_dec, takeEdge_out]
  rw [fetch_eq] at hi
  cases hi
  cases hr : s.portIn.rst
  · cases he : s.portIn.stepEn
    · simp only [hr, he, Bool.false_eq_true, if_false] at hu
      cases hu
      exact .nostep hr he
    · cases hs : s.dec.sync <;> simp only [hr, he, hs, Bool.false_eq_true, if_false, if_true] at hu
      · exact stepCase_searching ⟨hr, he⟩ hs hu
      · exact stepCase_decoding ⟨hr, he⟩ hs hu
  · simp only [hr, if_true] at hu
    cases hu
    exact .reset hr

end Sys2Proof.Machine
end

