-- ==== Sys2Proof/Laws/Run.lean ====
section
/-! SUPPORT. Runs over a list of input edges, one edge at a time. -/

namespace Sys2Proof.Machine

/-- No operation changes the parameters or the inputs still to come. -/
theorem exec_keeps_inputs {i : Instr} {s u : State} (h : exec i s = .next u) :
    u.params = s.params ∧ u.pending = s.pending ∧ u.tick = s.tick := by
  cases i <;> cases h <;> exact ⟨rfl, rfl, rfl⟩

/-- An operation's effect on DecoderState and the outputs is a function of DecoderState, the parameters, the level and
the time. -/
theorem exec_congr {i : Instr} {s s' u u' : State} (hd : s.dec = s'.dec)
    (hl : s.levelIn = s'.levelIn) (hn : s.nowIn = s'.nowIn) (h : exec i s = .next u)
    (h' : exec i s' = .next u') : u'.dec = u.dec ∧ u'.out = u.out := by
  cases i <;> cases h <;> cases h' <;> (try constructor) <;>
    simp [decodeFall, hd, hl, hn, State.stampEdge, clearCells]

/-- No edge, no change but the emptied list. -/
theorem feed_nil (s : State) : feed s [] = .next { s with pending := [] } := rfl

/-- A run over a list of edges is a step on its first and a run over the rest. -/
theorem feed_cons {s t : State} {e : PortIn} {es : List PortIn}
    (h : step { s with pending := e :: es } = .next t) : feed s (e :: es) = feed t es := by
  obtain ⟨i, u, _, hu, rfl⟩ := step_cases h
  have hp : u.pending = e :: es := (exec_keeps_inputs hu).2.1
  have h' : Sys2Proof.core.step { s with pending := e :: es } = .next u.takeEdge := h
  unfold feed
  simp only [List.length_cons, Host.Core.run]
  rw [h', takeEdge_pending hp]

end Sys2Proof.Machine
end

