-- ==== Sys2Proof/Tests/Slice0.lean ====
section
/-! SUPPORT. Tests.  Expected results are those of spec/95_test_vectors.md (its row or program is named), of the worked
examples of the operations' rules, or of spec/opcode_table.json; the witnesses meet the hypotheses of the statements. -/

namespace Sys2Proof.Tests

open Sys2Proof Sys2Proof.Machine

/-! ### WellFormed refuses -/

theorem test_wf_sFallDrop_mark : WellFormed true (.sFallDrop false .mark) = false := by decide
theorem test_wf_sRiseMiss_gap : WellFormed true (.sRiseMiss .gap) = false := by decide
theorem test_wf_dFallMark_one : WellFormed true (.dFallMark false .one) = false := by decide
theorem test_wf_dFallMark_short : WellFormed true (.dFallMark false .short) = false := by decide
theorem test_wf_dFallInd_mark : WellFormed true (.dFallInd false .mark) = false := by decide
theorem test_wf_dFallInd_short : WellFormed false (.dFallInd false .short) = false := by decide

/-! ### Decoding: selectors of 95_test_vectors.md and of the patterns of R74, bit by bit -/

theorem test_decode_reset : decode true 0b100000000#9 = .ok .reset := by decide
theorem test_decode_nostep : decode true 0b000000111#9 = .ok .nostep := by decide
-- S1: sel 0x06
theorem test_decode_sHold : decode true 0b010000110#9 = .ok (.sHold false false .short) := by decide
-- S3: sel 0x1E
theorem test_decode_sHold_high : decode true 0b010011110#9 = .ok (.sHold false true .short) := by
  decide
-- S2: sel 0x0C
theorem test_decode_sRise : decode true 0b010001100#9 = .ok (.sRise .outside) := by decide
-- S4: sel 0x11
theorem test_decode_sFallArm : decode true 0b010010001#9 = .ok (.sFallArm false) := by decide
-- S9: sel 0x12
theorem test_decode_sFallDrop : decode true 0b010010010#9 = .ok (.sFallDrop false .one) := by decide
-- S13: sel 0x2D
theorem test_decode_sRiseFound : decode true 0b010101101#9 = .ok .sRiseFound := by decide
-- S19: sel 0x29
theorem test_decode_sRiseMiss : decode true 0b010101001#9 = .ok (.sRiseMiss .mark) := by decide
-- D27: sel 0x44
theorem test_decode_dHold : decode true 0b011000100#9 = .ok (.dHold false false .outside) := by decide
-- D26: sel 0x4C
theorem test_decode_dRise : decode true 0b011001100#9 = .ok (.dRise false .outside) := by decide
-- D4: sel 0x51
theorem test_decode_dFallMark : decode true 0b011010001#9 = .ok (.dFallMark false .mark) := by decide
-- D1: sel 0x52
theorem test_decode_dFallOne : decode true 0b011010010#9 = .ok (.dFallOne false) := by decide
-- D2: sel 0x53
theorem test_decode_dFallZero : decode true 0b011010011#9 = .ok (.dFallZero false) := by decide
-- D18: sel 0x56, with both values of DEC_MARK_LOWER
theorem test_decode_dFallInd_short : decode true 0b011010110#9 = .ok (.dFallInd false .short) := by
  decide
theorem test_decode_dFallMark_short : decode false 0b011010110#9 = .ok (.dFallMark false .short) := by
  decide
theorem test_decode_reserved_zero : decode true 0b010010000#9 = .error (.reservedClass 0) := by decide
theorem test_decode_reserved_seven : decode true 0b011010111#9 = .error (.reservedClass 7) := by
  decide

/-- No selector selects two rows of the table: two rows' fixed bits differ somewhere both fix. -/
theorem test_rows_disjoint :
    opcodeRows.Pairwise (fun r q => r.mask &&& q.mask &&& (r.value ^^^ q.value) ≠ 0) := by decide

/-- Each row's fixed bits, with 0 in its open places, decode to the row's mnemonic. -/
theorem test_rows_decode : (opcodeRows.all fun r =>
    ((decodeTableWord 16 r.value.toNat).map Instr.mnemonic) == some r.mnemonic) = true := by decide

/-- Each row's word, placed in the reset state, is what the next step runs. -/
theorem test_rows_step : (opcodeRows.all fun r =>
    match (State.reset.withFetchWord 16 r.value.toNat).fetch with
    | .ok i => i.mnemonic == r.mnemonic
    | .error _ => false) = true := by decide

theorem test_tableWord_too_wide : decodeTableWord 16 0x280 = none := by decide
theorem test_tableWord_reserved : decodeTableWord 16 0x090 = none := by decide

/-! ### Small states -/

/-- A step at a level and a time: `STEP l, t` of 30_encoding.md R82. -/
def edge (l : Bool) (t : Nat) : PortIn := ⟨false, true, l, t⟩

/-- The reset state with another DecoderState and one input edge. -/
def at1 (d : DecoderState) (e : PortIn) : State := { State.reset with dec := d, pending := [e] }

/-- The state after a step. -/
def after (s : State) : State :=
  match step s with
  | .next t => t
  | .fault _ => s
  | .refused _ => s

/-- Searching, pin high since 1000 (rows S3 to S11). -/
def timing : DecoderState := { DecoderState.reset with lastEdge := 1000, prevLevel := true }

/-- Searching, candidate armed by the pulse that rose at 1000 (rows S12 to S20). -/
def armed : DecoderState := { DecoderState.reset with lastEdge := 1000, cand := true }

/-- Decoding at a slot, pin high since 1000 (rows D1 to D25). -/
def slotAt (n : BitVec 6) : DecoderState :=
  { DecoderState.reset with sync := true, slot := n, lastEdge := 1000, prevLevel := true }

/-- Decoding at slot 7 with the pin low (rows D26, D27). -/
def low7 : DecoderState := { slotAt 7 with prevLevel := false }

/-! ### One step of each operation -/

-- S22
theorem test_reset : (after (at1 { slotAt 30 with cur := ⟨0, 0, 0, 15⟩ } ⟨true, true, true, 9⟩)).dec =
    DecoderState.reset := by decide
-- S21
theorem test_nostep : (after (at1 DecoderState.reset ⟨false, false, true, 9⟩)).dec =
    DecoderState.reset := by decide
-- S12
theorem test_sHold : (after (at1 armed (edge false 99999))).dec = armed := by decide
-- S2
theorem test_sRise : (after (at1 DecoderState.reset (edge true 1000))).dec = timing := by decide
-- S5, S6
theorem test_sFallArm_low : (after (at1 timing (edge false 1151))).dec.cand = true := by decide
theorem test_sFallArm_high : (after (at1 timing (edge false 1249))).dec.cand = true := by decide
-- S7, S8
theorem test_sFallDrop_low : (after (at1 timing (edge false 1150))).dec.cand = false := by decide
theorem test_sFallDrop_high : (after (at1 timing (edge false 1250))).dec.cand = false := by decide
-- S15, S20
theorem test_sRiseFound : (after (at1 armed (edge true 2849))).dec.sync = true ∧
    (after (at1 armed (edge true 2849))).dec.slot = 1 := by decide
theorem test_sRiseFound_clears : (after (at1
    { armed with cells := { BitStore.zero with bMin := Vector.replicate 7 true } }
    (edge true 2800))).dec.cells = BitStore.zero := by decide
-- S17, S18
theorem test_sRiseMiss : (after (at1 armed (edge true 2850))).dec.cand = false ∧
    (after (at1 armed (edge true 2850))).dec.lastEdge = 2850 := by decide
theorem test_sRiseMiss_second : (after (at1 armed (edge true 2000))).dec.sync = false := by decide
-- D27
theorem test_dHold : (after (at1 low7 (edge false 9000))).dec = low7 := by decide
-- D26
theorem test_dRise : (after (at1 low7 (edge true 9000))).dec.lastEdge = 9000 ∧
    (after (at1 low7 (edge true 9000))).dec.slot = 7 := by decide
-- D6, and the cells of A5 completing a frame as in D14
theorem test_dFallMark_p1 : (after (at1 (slotAt 9) (edge false 1200))).resO = 0x9 ∧
    (after (at1 (slotAt 9) (edge false 1200))).dec.slot = 10 := by decide
theorem test_dFallMark_p5 : (after (at1
    { slotAt 49 with cells := ⟨#v[true, false, true, true, false, false, true],
        #v[true, false, false, false, true, true],
        #v[true, true, false, true, true, false, false, true, true, false],
        #v[true, false, false, true, true, false, false, true]⟩ }
    (edge false 1200))).timeO = 0x18EDCBBB := by decide
-- D11, D22
theorem test_dFallOne : (after (at1 (slotAt 33) (edge false 1549))).dec.cells.bDay[9] = true ∧
    (after (at1 (slotAt 33) (edge false 1549))).dec.slot = 34 := by decide
theorem test_dFallOne_overflow : (after (at1 (slotAt 59) (edge false 1500))).overflowO = true ∧
    (after (at1 (slotAt 59) (edge false 1500))).dec.slot = 0 := by decide
-- D2, D20
theorem test_dFallZero : (after (at1 (slotAt 1) (edge false 1800))).resO = 0x1 ∧
    (after (at1 (slotAt 1) (edge false 1800))).dec.cells.bMin[0] = false := by decide
theorem test_dFallZero_at_50 : (after (at1 (slotAt 49) (edge false 1800))).dec.slot = 50 := by decide
-- D18, D24
theorem test_dFallInd_short : (after (at1 (slotAt 49) (edge false 1150))).dec.slot = 50 := by decide
theorem test_dFallInd_overflow : (after (at1 (slotAt 59) (edge false 1600))).resO = 0x3 ∧
    (after (at1 (slotAt 59) (edge false 1600))).overflowO = true := by decide
-- D18 with DEC_MARK_LOWER = false
theorem test_decMarkLower_false : (after { at1 (slotAt 49) (edge false 1150) with
    params := { Params.source with decMarkLower := false } }).completeO = true := by decide
-- P3: a duration across the wrap of the counter; and W_MS = 11
theorem test_wrap : subMod 32 100 4294967196 = 200 ∧ subMod 11 152 2000 = 200 := by decide
-- A4 and A6
theorem test_assemble_all : (assemble ⟨Vector.replicate 7 true, Vector.replicate 6 true,
    Vector.replicate 10 true, Vector.replicate 8 true⟩).pack = 0x297A36D5 := by decide
theorem test_assemble_invalid_digits : (assemble ⟨#v[false, false, false, false, false, false, false],
    #v[false, false, true, true, true, true],
    #v[false, false, true, false, false, false, true, true, true, true],
    #v[false, false, false, false, true, true, true, true]⟩).pack = 0x03CBE780 := by decide

/-! ### Witnesses: for each statement with hypotheses, a state and operands that meet them together -/

/-- The states the witnesses use: a step of each kind has a next state. -/
theorem step_after_timing : step (at1 timing (edge false 1200)) = .next (after (at1 timing (edge false 1200))) :=
  rfl
theorem step_after_armed : step (at1 armed (edge true 2800)) = .next (after (at1 armed (edge true 2800))) := rfl
theorem step_after_slot49 : step (at1 (slotAt 49) (edge false 1200)) =
    .next (after (at1 (slotAt 49) (edge false 1200))) := rfl
theorem step_after_slot59 : step (at1 (slotAt 59) (edge false 1500)) =
    .next (after (at1 (slotAt 59) (edge false 1500))) := rfl
theorem step_after_slot7 : step (at1 (slotAt 7) (edge false 1800)) =
    .next (after (at1 (slotAt 7) (edge false 1800))) := rfl

theorem inv_slotAt_7 : Inv (at1 (slotAt 7) (edge false 1800)) :=
  ⟨by decide, by decide, by decide, by decide, rfl, rfl, rfl, by decide, by decide, by decide, by decide,
    by decide⟩

theorem fresh_slotAt_7 : FreshCells (at1 (slotAt 7) (edge false 1800)) :=
  fun _ a _ => memRead_zero_ne a

theorem falling_slotAt_7 : (at1 (slotAt 7) (edge false 1800)).Falling := ⟨⟨rfl, rfl⟩, rfl, rfl⟩

theorem witness_DecodeGivesBackEveryEncodedOperation :
    WellFormed false (.dFallMark true .short) = true ∧ WellFormed true (.sFallDrop true .gap) = true := by
  decide
theorem witness_StepSelectorsEncodeBack :
    (0b011110100#9).getLsbD 8 = false ∧ (0b011110100#9).getLsbD 7 = true ∧
      decode true 0b011110100#9 = .ok (.dFallInd true .outside) := by decide
theorem witness_EverySelectorMatchesExactlyOneRow :
    DClass.ofCode ((0x0AD#9).extractLsb' 0 3) ≠ none := by decide
theorem witness_ReservedClassCodesAreRefused :
    (0b010001111#9).getLsbD 8 = false ∧ (0b010001111#9).getLsbD 7 = true ∧
      (0b010001111#9).extractLsb' 0 3 = 0b111#3 := by decide
theorem witness_StepRunsTheSelectedOperation :
    decode true (at1 timing (edge false 1200)).selector = .ok (.sFallArm false) ∧
      ∃ t, exec (.sFallArm false) (at1 timing (edge false 1200)) = .next t :=
  ⟨by decide, _, rfl⟩
theorem witness_SelectorTableAgreesWithTheStepFunction :
    (at1 timing (edge false 1200)).Stepping := ⟨rfl, rfl⟩
theorem witness_StepsKeepTheParametersAndTakeOneEdge :
    ∃ s t, step s = .next t := ⟨_, _, step_after_timing⟩
theorem witness_PlacedSelectorIsTheNextOne : State.reset.params = Params.source ∧ 0x0AD < 512 ∧
    DClass.ofCode ((BitVec.ofNat 9 0x0AD).extractLsb' 0 3) ≠ none := by decide
theorem witness_DurationIsTheElapsedTimeModuloTheWidth :
    (at1 timing (edge false 1200)).dec.lastEdge = (2 ^ 32 + 1000) % 2 ^ 32 ∧
      (at1 timing (edge false 1200)).nowIn = ((2 ^ 32 + 1000) + 200) % 2 ^ 32 := by decide
theorem witness_DurationClassesAreTheOpenWindows : Params.source.Ordered := by decide
theorem witness_MemWriteWritesItsCellAndNoOther :
    mapSlot 5 = none ∧ mapSlot 2 ≠ none ∧ mapSlot 49 ≠ none ∧ mapSlot 50 = none ∧ (3 : Nat) ≠ 2 := by decide
theorem witness_StoreIsWhatItsAddressesRead (a : Nat) :
    memRead BitStore.zero a = memRead (memWrite BitStore.zero 5 true) a := rfl
theorem witness_holds : (at1 armed (edge false 99999)).Holding ∧ (at1 low7 (edge false 9000)).Holding :=
  ⟨⟨⟨rfl, rfl⟩, rfl⟩, ⟨rfl, rfl⟩, rfl⟩
theorem witness_windows_of_the_searcher : (at1 armed (edge true 2751)).params.Ordered ∧
    (at1 armed (edge true 2751)).fetch = .ok .sRiseFound ∧
    (at1 armed (edge true 2750)).fetch = .ok (.sRiseMiss .outside) ∧
    (at1 armed (edge true 2850)).fetch = .ok (.sRiseMiss .outside) := by decide
theorem witness_windows_of_the_classifier : (at1 (slotAt 7) (edge false 1451)).params.Ordered ∧
    (at1 (slotAt 7) (edge false 1451)).fetch = .ok (.dFallOne false) ∧
    (at1 (slotAt 7) (edge false 1849)).fetch = .ok (.dFallZero false) ∧
    (at1 (slotAt 7) (edge false 1850)).fetch = .ok (.dFallInd false .outside) := by decide
/-- The clauses of the four D.FALL statements at the ends of their ranges: `n` is 2, 49, 50, 51, 59, 60. -/
theorem witness_positions : ([1, 48, 49, 50, 58, 59].map fun k => (slotAt (BitVec.ofNat 6 k)).slot.toNat + 1) =
    [2, 49, 50, 51, 59, 60] := by decide
theorem witness_EffectiveClassDecidesTheSlotResult :
    (at1 (slotAt 7) (edge false 1800)).dec.sync = true ∧ (at1 (slotAt 7) (edge false 1800)).Falling :=
  ⟨rfl, falling_slotAt_7⟩
theorem witness_ResultCodesOfEveryOperation :
    ∃ t, exec (.dFallMark false .mark) (at1 (slotAt 9) (edge false 1200)) = .next t := ⟨_, rfl⟩
theorem witness_EventStrobesOfEveryStep :
    step (at1 armed (edge true 2800)) = .next (after (at1 armed (edge true 2800))) ∧
      (after (at1 armed (edge true 2800))).foundO = true := ⟨step_after_armed, by decide⟩
theorem witness_BothFrameEndsForceSearching_complete :
    step (at1 (slotAt 49) (edge false 1200)) = .next (after (at1 (slotAt 49) (edge false 1200))) ∧
      (after (at1 (slotAt 49) (edge false 1200))).completeO = true := ⟨step_after_slot49, by decide⟩
theorem witness_BothFrameEndsForceSearching_overflow :
    step (at1 (slotAt 59) (edge false 1500)) = .next (after (at1 (slotAt 59) (edge false 1500))) ∧
      (after (at1 (slotAt 59) (edge false 1500))).overflowO = true := ⟨step_after_slot59, by decide⟩
theorem witness_EveryStepKeepsTheInvariant : ∃ s t, Inv s ∧ step s = .next t :=
  ⟨_, _, inv_slotAt_7, step_after_slot7⟩
theorem witness_CellsStillToComeStayZero :
    Inv (at1 (slotAt 7) (edge false 1800)) ∧ FreshCells (at1 (slotAt 7) (edge false 1800)) ∧
      (slotAt 7).sync = true ∧ (at1 (slotAt 7) (edge false 1800)).Falling ∧
      eff true (at1 (slotAt 7) (edge false 1800)).dclass = .zero ∧
      step (at1 (slotAt 7) (edge false 1800)) = .next (after (at1 (slotAt 7) (edge false 1800))) :=
  ⟨inv_slotAt_7, fresh_slotAt_7, rfl, falling_slotAt_7, by decide, step_after_slot7⟩
theorem witness_WhatEveryStepLeavesUntouched :
    (at1 timing (edge false 1200)).Stepping ∧ (at1 timing (edge false 1200)).Falling ∧
      step (at1 timing (edge false 1200)) = .next (after (at1 timing (edge false 1200))) ∧
      (after (at1 timing (edge false 1200))).foundO = false :=
  ⟨⟨rfl, rfl⟩, ⟨⟨rfl, rfl⟩, rfl, rfl⟩, step_after_timing, by decide⟩
theorem witness_EveryRisingEdgeIsRecorded :
    (at1 armed (edge true 2800)).Stepping ∧ (at1 armed (edge true 2800)).Rising ∧
      step (at1 armed (edge true 2800)) = .next (after (at1 armed (edge true 2800))) :=
  ⟨⟨rfl, rfl⟩, ⟨⟨rfl, rfl⟩, rfl, rfl⟩, step_after_armed⟩
theorem witness_ModeTransitionTable : Inv (at1 (slotAt 7) (edge false 1800)) ∧
    (at1 (slotAt 7) (edge false 1800)).fetch = .ok (.dFallZero false) ∧
    ∃ t, exec (.dFallZero false) (at1 (slotAt 7) (edge false 1800)) = .next t :=
  ⟨inv_slotAt_7, by decide, _, rfl⟩

/-- The first edges of program P1: a marker-width pulse, then the rising edge of the frame start, and a Zero slot. -/
def p1Edges : List PortIn := [edge true 1000, edge false 1200, edge true 2800, edge false 3600]

/-- The reset state with those edges to come. -/
def p1Start : State := { State.reset with pending := p1Edges }

theorem reachable_p1_found : Reachable (after (after (after p1Start))) :=
  .step (.step (.step (s := p1Start) (.reset Params.source p1Edges 0) rfl) rfl) rfl

/-- The reachable clauses of the D.FALL.MARK, D.FALL.ZERO and D.FALL.IND statements and of the mode table. -/
theorem witness_reachable_decoding :
    Reachable (after (after (after p1Start))) ∧ (after (after (after p1Start))).dec.sync = true :=
  ⟨reachable_p1_found, by decide⟩
theorem witness_ReachableStatesSatisfyTheInvariant :
    Reachable (after (after (after p1Start))) ∧ (after (after (after p1Start))).dec.slot ≠ 0 ∧
      step (after (after (after p1Start))) = .next (after (after (after (after p1Start)))) :=
  ⟨reachable_p1_found, by decide, rfl⟩
theorem witness_HoldsAndNostepsAreInvisible_state :
    (at1 timing (edge false 1200)).Stepping ∧
      ({ at1 timing (edge false 1200) with tick := 3 } : State).Stepping ∧
      step (at1 timing (edge false 1200)) = .next (after (at1 timing (edge false 1200))) :=
  ⟨⟨rfl, rfl⟩, ⟨rfl, rfl⟩, step_after_timing⟩
theorem witness_HoldsAndNostepsAreInvisible_run :
    (∃ t, feed State.reset [edge true 1000, edge true 1100, edge false 1200] = .next t) ∧
      dropIdle false [edge true 1000, edge true 1100, edge false 1200] =
        [edge true 1000, edge false 1200] :=
  ⟨⟨_, rfl⟩, by decide⟩
theorem witness_OnlyTimeDifferencesMatter :
    (∀ e ∈ p1Edges, e.rst = false) ∧ ∃ t, feed State.reset p1Edges = .next t :=
  ⟨by decide, _, rfl⟩
theorem witness_SlotsCountFallingEdges :
    ∃ (f : Nat → State) (m : Nat), Inv (f 0) ∧ (∀ j, j < m → step (f j) = .next (f (j + 1))) ∧
      (∀ j, j ≤ m → (f j).dec.sync = true) ∧ fallsBefore f m = 1 := by
  refine ⟨fun j => if j = 0 then at1 (slotAt 7) (edge false 1800)
    else after (at1 (slotAt 7) (edge false 1800)), 1, inv_slotAt_7, ?_, ?_, rfl⟩
  · intro j hj
    obtain rfl : j = 0 := by omega
    exact step_after_slot7
  · intro j hj
    interval_cases j <;> rfl
theorem witness_StaleEdgeTimeInfluencesNothing :
    DecoderState.reset.sync = false ∧ DecoderState.reset.cand = false ∧
      DecoderState.reset.prevLevel = false ∧
      step (at1 DecoderState.reset (edge true 1000)) =
        .next (after (at1 DecoderState.reset (edge true 1000))) := ⟨rfl, rfl, rfl, rfl⟩

end Sys2Proof.Tests
end

section
/-! What a step does to the parameters and to the input sequence (00_scope.md R7, 40_step_dispatch.md R100). -/

namespace Sys2Proof.Machine

/-- With no edge pending, taking an edge counts one of the free input sequence. -/
theorem takeEdge_of_pending_nil {s : State} (h : s.pending = []) :
    s.takeEdge = { s with tick := s.tick + 1 } := by
  unfold State.takeEdge; rw [h]

/-- Which inputs remain after an edge depends only on the inputs before it. -/
theorem takeEdge_inputs_congr {s u : State} (hp : u.pending = s.pending) (ht : u.tick = s.tick) :
    u.takeEdge.pending = s.takeEdge.pending ∧ u.takeEdge.tick = s.takeEdge.tick := by
  cases hs : s.pending with
  | nil =>
    rw [takeEdge_of_pending_nil hs, takeEdge_of_pending_nil (hp.trans hs)]
    exact ⟨hp, congrArg (· + 1) ht⟩
  | cons e es =>
    rw [takeEdge_pending hs, takeEdge_pending (hp.trans hs)]
    exact ⟨rfl, ht⟩

/-- Settles O9: the operation keeps the parameters and the inputs, so the edge taken after it is the one that would be
taken before it. -/
theorem stepsKeepTheParametersAndTakeOneEdge :
    Obligations.StepsKeepTheParametersAndTakeOneEdge := by
  intro s t h
  obtain ⟨i, u, -, hu, rfl⟩ := step_cases h
  obtain ⟨hparams, hpending, htick⟩ := exec_keeps_inputs hu
  exact ⟨(takeEdge_params u).trans hparams, takeEdge_inputs_congr hpending htick⟩

end Sys2Proof.Machine
end

section
/-! What the shared operations leave alone, and how large an assembled TimePoint can be (43_frame_accumulator.md R161,
44_time_assembler.md R182). -/

namespace Sys2Proof.Machine

/-- Accumulate writes no field but the bit-field store. -/
theorem accumulate_eq_with_cells (n : Nat) (res : SlotResult) (d : DecoderState) :
    accumulate n res d = { d with cells := (accumulate n res d).cells } := by
  cases res <;> rfl

section
variable (n : Nat) (res : SlotResult) (d : DecoderState)

@[simp] theorem accumulate_sync : (accumulate n res d).sync = d.sync := by
  rw [accumulate_eq_with_cells]
@[simp] theorem accumulate_cur : (accumulate n res d).cur = d.cur := by
  rw [accumulate_eq_with_cells]
@[simp] theorem accumulate_prev : (accumulate n res d).prev = d.prev := by
  rw [accumulate_eq_with_cells]
@[simp] theorem accumulate_lastEdge : (accumulate n res d).lastEdge = d.lastEdge := by
  rw [accumulate_eq_with_cells]
@[simp] theorem accumulate_status : (accumulate n res d).status = d.status := by
  rw [accumulate_eq_with_cells]
@[simp] theorem accumulate_error : (accumulate n res d).error = d.error := by
  rw [accumulate_eq_with_cells]
@[simp] theorem accumulate_cand : (accumulate n res d).cand = d.cand := by
  rw [accumulate_eq_with_cells]

end

/-- A position below 60 is the slot register's value once it is stored there. -/
theorem toNat_slot_of_lt {n : Nat} (h : n < 60) : (BitVec.ofNat 6 n).toNat = n := by
  rw [BitVec.toNat_ofNat]
  omega

theorem minuteSum_le (v : Vector Bool 7) : minuteSum v ≤ 85 := by
  unfold minuteSum
  grind [Bool.toNat_le]

theorem hourSum_le (v : Vector Bool 6) : hourSum v ≤ 45 := by
  unfold hourSum
  grind [Bool.toNat_le]

theorem daySum_le (v : Vector Bool 10) : daySum v ≤ 465 := by
  unfold daySum
  grind [Bool.toNat_le]

theorem yearSum_le (v : Vector Bool 8) : yearSum v ≤ 165 := by
  unfold yearSum
  grind [Bool.toNat_le]

/-- The members of a TimePoint keep within the sums of their weights (10_state.md R31 (f)). -/
structure TimePoint.InRange (t : TimePoint) : Prop where
  minuteLe : t.minute.toNat ≤ 85
  hourLe : t.hour.toNat ≤ 45
  dayLe : t.dayOfYear.toNat ≤ 465
  yearLe : t.year.toNat ≤ 165

theorem zero_inRange : TimePoint.zero.InRange := ⟨by decide, by decide, by decide, by decide⟩

/-- The weights of a field bound its member; storing the sum in a register of fixed width cannot raise it. -/
theorem assemble_inRange (st : BitStore) : (assemble st).InRange where
  minuteLe := (Nat.mod_le _ _).trans (minuteSum_le st.bMin)
  hourLe := (Nat.mod_le _ _).trans (hourSum_le st.bHr)
  dayLe := (Nat.mod_le _ _).trans (daySum_le st.bDay)
  yearLe := (Nat.mod_le _ _).trans (yearSum_le st.bYr)

end Sys2Proof.Machine
end

section
/-! What one step can leave in each field of DecoderState, read off the cases of `StepCase`. -/

namespace Sys2Proof.Machine

/-- A rising edge, a falling edge and a hold shut each other out (40_step_dispatch.md R101). -/
theorem State.Rising.not_falling {s : State} (h : s.Rising) : ¬s.Falling := by
  obtain ⟨-, hlow, -⟩ := h
  rintro ⟨-, hhigh, -⟩
  simp [hlow] at hhigh

theorem State.Rising.not_holding {s : State} (h : s.Rising) : ¬s.Holding := by
  obtain ⟨-, hlow, hlevel⟩ := h
  rintro ⟨-, hsame⟩
  simp [hlow, hlevel] at hsame

section
variable {s : State} {d : DecoderState} {o : Outputs}

/-- `prev`, `status` and `error` are written by RESET alone (10_state.md R25, R27). -/
theorem StepCase.constants (h : StepCase s d o) :
    d = DecoderState.reset ∨
      d.prev = s.dec.prev ∧ d.status = s.dec.status ∧ d.error = s.dec.error := by
  cases h with
  | reset => exact .inl rfl
  | slot => exact .inr (by simp)
  | _ => exact .inr ⟨rfl, rfl, rfl⟩

/-- `cur` takes zeros by RESET and the assembled cells by FrameComplete, and else stays. -/
theorem StepCase.cur_cases (h : StepCase s d o) :
    d.cur = TimePoint.zero ∨ d.cur = assemble s.dec.cells ∨ d.cur = s.dec.cur := by
  cases h with
  | reset => exact .inl rfl
  | complete => exact .inr (.inl rfl)
  | slot => exact .inr (.inr (by simp))
  | _ => exact .inr (.inr rfl)

/-- `lastEdge` takes zero by RESET and the step's time by a rising edge, and else stays. -/
theorem StepCase.lastEdge_cases (h : StepCase s d o) :
    d.lastEdge = 0 ∨ d.lastEdge = s.nowIn ∨ d.lastEdge = s.dec.lastEdge := by
  cases h with
  | reset => exact .inl rfl
  | sRise | sRiseFound | sRiseMiss | dRise => exact .inr (.inl rfl)
  | slot => exact .inr (.inr (by simp))
  | _ => exact .inr (.inr rfl)

/-- Each of the four operations of a rising edge records the time. -/
theorem StepCase.lastEdge_of_rising (h : StepCase s d o) (hr : s.Rising) :
    d.lastEdge = s.nowIn := by
  have ⟨⟨hrst, hen⟩, _⟩ := hr
  cases h with
  | reset hrst' => simp [hrst] at hrst'
  | nostep _ hen' => simp [hen] at hen'
  | hold hh => exact absurd hh hr.not_holding
  | sRise | sRiseFound | sRiseMiss | dRise => rfl
  | sFallArm hf | sFallDrop hf | slot _ hf | complete hf | overflow _ hf =>
    exact absurd hf hr.not_falling

/-- Every operation of a decode step ends with `S.prevLevel <- level` (40_step_dispatch.md R100). -/
theorem StepCase.prevLevel_of_stepping (h : StepCase s d o) (hst : s.Stepping) :
    d.prevLevel = s.levelIn := by
  obtain ⟨hrst, hen⟩ := hst
  cases h with
  | reset hrst' => simp [hrst] at hrst'
  | nostep _ hen' => simp [hen] at hen'
  | hold hh => exact hh.2.symm
  | sRise hr | sRiseFound hr | sRiseMiss hr | dRise hr =>
    obtain ⟨-, -, hlevel⟩ := hr
    exact hlevel.symm
  | sFallArm hf | sFallDrop hf | slot _ hf | complete hf | overflow _ hf =>
    obtain ⟨-, -, hlevel⟩ := hf
    exact hlevel.symm

end

/-- Settles O42, by the two lemmas on `lastEdge` and `prevLevel`. -/
theorem everyRisingEdgeIsRecorded : Obligations.EveryRisingEdgeIsRecorded := by
  intro s t hst h
  obtain ⟨hcase, -⟩ := step_case h
  exact ⟨hcase.lastEdge_of_rising, hcase.prevLevel_of_stepping hst⟩

end Sys2Proof.Machine
end

section
/-! The invariants of 10_state.md R31: they hold right after reset, every step keeps them, and so every reachable state
has them. -/

namespace Sys2Proof.Machine

/-- The invariants (a) to (d) of 10_state.md R31, on mode, position, candidate and level. -/
structure ModeInv (d : DecoderState) : Prop where
  slotLe : d.slot.toNat ≤ 59
  searching : d.sync = false → d.slot = 0
  decoding : d.sync = true → 1 ≤ d.slot.toNat ∧ d.cand = false
  candidate : d.cand = true → d.sync = false ∧ d.prevLevel = false

/-- In Searching the position is 0, and an armed candidate means the pin is low. -/
theorem ModeInv.of_searching {d : DecoderState} (hs : d.sync = false) (hn : d.slot = 0)
    (hc : d.cand = true → d.prevLevel = false) : ModeInv d where
  slotLe := by simp [hn]
  searching _ := hn
  decoding h := by simp [hs] at h
  candidate h := ⟨hs, hc h⟩

/-- In Decoding the position is between 1 and 59, and no candidate is armed. -/
theorem ModeInv.of_decoding {d : DecoderState} (hs : d.sync = true)
    (hn : 1 ≤ d.slot.toNat ∧ d.slot.toNat ≤ 59) (hc : d.cand = false) : ModeInv d where
  slotLe := hn.2
  searching h := by simp [hs] at h
  decoding _ := ⟨hn.1, hc⟩
  candidate h := by simp [hc] at h

/-- The invariants on mode, position, candidate and level make up `Inv` with those on the fields never written, on the
completed TimePoint and on the width of `lastEdge`. -/
theorem inv_iff (s : State) :
    Inv s ↔ ModeInv s.dec ∧
      (s.dec.prev = TimePoint.zero ∧ s.dec.status = 0 ∧ s.dec.error = 0) ∧
      s.dec.cur.InRange ∧ s.dec.lastEdge < 2 ^ s.params.wMs := by
  constructor
  · rintro ⟨ha, hb, hc, hd, hprev, hstatus, herror, hmin, hhr, hday, hyr, hedge⟩
    exact ⟨⟨ha, hb, hc, hd⟩, ⟨hprev, hstatus, herror⟩, ⟨hmin, hhr, hday, hyr⟩, hedge⟩
  · rintro ⟨⟨ha, hb, hc, hd⟩, ⟨hprev, hstatus, herror⟩, ⟨hmin, hhr, hday, hyr⟩, hedge⟩
    exact ⟨ha, hb, hc, hd, hprev, hstatus, herror, hmin, hhr, hday, hyr, hedge⟩

theorem modeInv_reset : ModeInv DecoderState.reset := .of_searching rfl rfl (fun _ => rfl)

/-- The reset values satisfy the invariants, whatever the parameters and the inputs. -/
theorem inv_of_dec_reset {s : State} (h : s.dec = DecoderState.reset) : Inv s := by
  rw [inv_iff, h]
  exact ⟨modeInv_reset, ⟨rfl, rfl, rfl⟩, zero_inRange, Nat.two_pow_pos _⟩

/-- A state in Searching decodes no frame, so no cell of it is awaited. -/
theorem freshCells_of_searching {s : State} (h : s.dec.sync = false) : FreshCells s := by
  intro hs
  simp [h] at hs

/-- Settles O37: the reset values are those of plain search. -/
theorem resetSatisfiesTheInvariant : Obligations.ResetSatisfiesTheInvariant :=
  ⟨inv_of_dec_reset rfl, freshCells_of_searching rfl⟩

section
variable {s : State} {d : DecoderState} {o : Outputs}

/-- The invariants (a) to (d) are kept: Searching is left only for position 1, a falling edge in Decoding moves the
position on by 1 below 60, and both frame ends return to position 0; a candidate is armed only as the pin goes low, and
a rising edge drops it. -/
theorem StepCase.keeps_modeInv (h : StepCase s d o) (hinv : ModeInv s.dec) : ModeInv d := by
  cases h with
  | reset => exact modeInv_reset
  | nostep | hold => exact hinv
  | sRise _ hs hc => exact .of_searching hs (hinv.searching hs) (by simp [hc])
  | sFallArm _ hs | sFallDrop _ hs => exact .of_searching hs (hinv.searching hs) (fun _ => rfl)
  | sRiseFound => exact .of_decoding rfl ⟨le_rfl, by simp⟩ rfl
  | sRiseMiss _ hs => exact .of_searching hs (hinv.searching hs) (by simp)
  | dRise _ hs =>
    obtain ⟨hpos, hc⟩ := hinv.decoding hs
    exact .of_decoding hs ⟨hpos, hinv.slotLe⟩ hc
  | slot cc _ hs _ _ hn =>
    obtain ⟨-, hc⟩ := hinv.decoding hs
    obtain ⟨hpos, -⟩ := nextSlot_bounds s.dec
    refine .of_decoding (by simpa using hs) ?_ (by simpa using hc)
    rw [toNat_slot_of_lt hn]
    omega
  | complete | overflow => exact .of_searching rfl rfl (fun _ => rfl)

end

/-- Settles O38, group by group: (a) to (d) by the cases of the step, (e) and (f) and the width of `lastEdge` by what a
step can leave in those fields. -/
theorem everyStepKeepsTheInvariant : Obligations.EveryStepKeepsTheInvariant := by
  intro s t hinv h
  obtain ⟨hcase, hparams⟩ := step_case h
  obtain ⟨hmode, ⟨hprev, hstatus, herror⟩, hcur, hedge⟩ := (inv_iff s).1 hinv
  rcases hcase.constants with hreset | ⟨hprev', hstatus', herror'⟩
  · exact inv_of_dec_reset hreset
  refine (inv_iff t).2 ⟨hcase.keeps_modeInv hmode, ⟨hprev'.trans hprev, hstatus'.trans hstatus,
    herror'.trans herror⟩, ?_, ?_⟩
  · rcases hcase.cur_cases with hc | hc | hc <;> rw [hc]
    exacts [zero_inRange, assemble_inRange _, hcur]
  · rw [hparams]
    rcases hcase.lastEdge_cases with he | he | he <;> rw [he]
    exacts [Nat.two_pow_pos _, nowIn_lt s, hedge]

/-- Every reachable state satisfies the invariants. -/
theorem inv_of_reachable {s : State} (h : Reachable s) : Inv s := by
  induction h with
  | reset => exact inv_of_dec_reset rfl
  | step _ hstep ih => exact everyStepKeepsTheInvariant _ _ ih hstep

/-- The position returns to 0 by RESET, FrameComplete and FrameOverflow: every other step leaves it as it is, or loads
1, or moves it on by 1 below 60. -/
theorem StepCase.slot_eq_zero_iff {s : State} {d : DecoderState} {o : Outputs}
    (h : StepCase s d o) (hne : s.dec.slot ≠ 0) :
    d.slot = 0 ↔ s.portIn.rst = true ∨ o.complete = true ∨ o.overflow = true := by
  cases h with
  | reset hrst => simp [hrst, DecoderState.reset]
  | nostep hrst => simpa [hrst, Outputs.idle] using hne
  | hold h | sRise h | sFallArm h | sFallDrop h | sRiseMiss h | dRise h =>
    obtain ⟨⟨hrst, -⟩, -⟩ := h
    simpa [hrst, Outputs.idle] using hne
  | sRiseFound h =>
    obtain ⟨⟨hrst, -⟩, -⟩ := h
    simp [hrst, Outputs.idle]
  | slot cc hf _ _ _ hn =>
    obtain ⟨⟨hrst, -⟩, -⟩ := hf
    have hpos : (BitVec.ofNat 6 s.dec.nextSlot).toNat ≠ 0 := by
      rw [toNat_slot_of_lt hn]
      exact Nat.succ_ne_zero _
    have hslot : BitVec.ofNat 6 s.dec.nextSlot ≠ 0 := fun h0 => hpos (by rw [h0]; rfl)
    simpa [hrst] using hslot
  | complete | overflow => simp

/-- Settles O39: the invariants by induction on the run, and the causes of position 0 by the cases of the step. -/
theorem reachableStatesSatisfyTheInvariant : Obligations.ReachableStatesSatisfyTheInvariant :=
  ⟨fun _ => inv_of_reachable, fun _ _ _ h hne => (step_case h).1.slot_eq_zero_iff hne⟩

end Sys2Proof.Machine
end

section
/-! The bit-field store by its addresses (20_memory.md R51 to R53): which cell an address names, what a read gives after a
write, and that the store is what its slots read as. -/

namespace Sys2Proof.Machine

/-- The cell, as field and index, that an address is mapped to: `Map(a)` of R51 without the weight. -/
def cellOf (a : Nat) : Option (Field × Nat) := (mapSlot a).map fun r => (r.field, r.index)

theorem cellOf_eq_none {a : Nat} : cellOf a = none ↔ mapSlot a = none := Option.map_eq_none_iff

theorem cellOf_isSome (a : Nat) : (cellOf a).isSome = (mapSlot a).isSome := Option.isSome_map

/-- The cell an address names is one that its field has. -/
theorem index_lt_of_cellOf {a : Nat} {f : Field} {i : Nat} (h : cellOf a = some (f, i)) :
    i < fieldSize f := by
  obtain ⟨r, hr, hcell⟩ := Option.map_eq_some_iff.1 h
  obtain ⟨rfl, rfl⟩ := Prod.mk.inj hcell
  exact (mapSlot_some hr).2.2

/-- No two rows of the address map name one cell. -/
theorem positionTable_cells_nodup : (positionTable.map fun r => (r.field, r.index)).Nodup := by decide

/-- No two addresses are mapped to one cell: they would share a row, and a row has one slot. -/
theorem eq_of_cellOf_eq {a b : Nat} {c : Field × Nat} (ha : cellOf a = some c)
    (hb : cellOf b = some c) : a = b := by
  obtain ⟨r, hr, hrc⟩ := Option.map_eq_some_iff.1 ha
  obtain ⟨q, hq, hqc⟩ := Option.map_eq_some_iff.1 hb
  obtain ⟨hrmem, hra, -⟩ := mapSlot_some hr
  obtain ⟨hqmem, hqb, -⟩ := mapSlot_some hq
  have hrow : r = q := List.inj_on_of_nodup_map positionTable_cells_nodup hrmem hqmem (hrc.trans hqc.symm)
  rw [← hra, hrow, hqb]

/-- MemRead gives the cell that its address names (R53). -/
theorem memRead_eq (st : BitStore) (a : Nat) :
    memRead st a = (cellOf a).bind fun c => st.get c.1 c.2 := by
  unfold memRead cellOf
  cases mapSlot a <;> rfl

/-- MemWrite writes the cell that its address names, if it names one (R52). -/
theorem memWrite_eq (st : BitStore) (a : Nat) (v : Bool) :
    memWrite st a v = (cellOf a).elim st fun c => st.put c.1 c.2 v := by
  unfold memWrite cellOf
  cases mapSlot a <;> rfl

/-- What an address reads after a write at a mapped one: the bit written there, and elsewhere what it read before. -/
theorem memRead_memWrite {st : BitStore} {a : Nat} {f : Field} {i : Nat} (ha : cellOf a = some (f, i))
    (v : Bool) (b : Nat) :
    memRead (memWrite st a v) b = if b = a then some v else memRead st b := by
  have hput : memWrite st a v = st.put f i v := by rw [memWrite_eq, ha]; rfl
  rw [hput, memRead_eq, memRead_eq]
  cases hb : cellOf b with
  | none =>
    have hne : b ≠ a := by rintro rfl; rw [ha] at hb; cases hb
    rw [if_neg hne]; rfl
  | some c =>
    obtain ⟨g, j⟩ := c
    have hcell : (f = g ∧ i = j) ↔ b = a := by
      constructor
      · rintro ⟨rfl, rfl⟩; exact eq_of_cellOf_eq hb ha
      · rintro rfl; simpa [ha] using hb
    simp [get_put st f g i j v (index_lt_of_cellOf ha), hcell]

/-- Settles O14, by whether the written address is mapped. -/
theorem memWriteWritesItsCellAndNoOther : Obligations.MemWriteWritesItsCellAndNoOther := by
  intro st a v
  cases ha : cellOf a with
  | none =>
    have hst : memWrite st a v = st := by rw [memWrite_eq, ha]; rfl
    exact ⟨fun _ => hst, fun h => absurd (cellOf_eq_none.1 ha) h, fun b _ => by rw [hst]⟩
  | some c =>
    have hmapped : mapSlot a ≠ none := fun h => by simp [cellOf_eq_none.2 h] at ha
    exact ⟨fun h => absurd h hmapped, fun _ => by rw [memRead_memWrite ha, if_pos rfl],
      fun b hb => by rw [memRead_memWrite ha, if_neg hb]⟩

/-- A field has the cells below its size. -/
theorem get_isSome {f : Field} {i : Nat} (h : i < fieldSize f) (st : BitStore) :
    (st.get f i).isSome = true := by
  cases f <;> simp_all [BitStore.get, fieldSize]

/-- A read answers exactly at the mapped addresses. -/
theorem memRead_isSome (st : BitStore) (a : Nat) : (memRead st a).isSome = (mapSlot a).isSome := by
  rw [memRead_eq, ← cellOf_isSome]
  cases h : cellOf a with
  | none => rfl
  | some c => exact get_isSome (index_lt_of_cellOf h) st

/-- The reads of a vector at its indices, in order, are its elements. -/
theorem map_getElem?_range {α : Type} {n : Nat} (v : Vector α n) :
    (List.range n).map (fun i => v[i]?) = v.toList.map some := by
  refine List.ext_getElem (by simp) fun i hi _ => ?_
  have : i < n := by simpa using hi
  simp [this]

/-- Addresses that name the cells of a field in index order read as those cells. -/
theorem map_memRead_eq {slots : List Nat} {f : Field}
    (h : slots.map cellOf = (List.range (fieldSize f)).map fun i => some (f, i)) (st : BitStore) :
    slots.map (memRead st) = (List.range (fieldSize f)).map (st.get f) :=
  calc slots.map (memRead st)
      = (slots.map cellOf).map (fun c => c.bind fun c => st.get c.1 c.2) := by
        simp [memRead_eq]
    _ = (List.range (fieldSize f)).map (st.get f) := by
        simp [h]

section
variable (st : BitStore)

theorem map_memRead_minute : [2, 3, 4, 6, 7, 8, 9].map (memRead st) = st.bMin.toList.map some :=
  (map_memRead_eq (f := .bMin) (by decide) st).trans (map_getElem?_range st.bMin)

theorem map_memRead_hour : [13, 14, 16, 17, 18, 19].map (memRead st) = st.bHr.toList.map some :=
  (map_memRead_eq (f := .bHr) (by decide) st).trans (map_getElem?_range st.bHr)

theorem map_memRead_day :
    [23, 24, 26, 27, 28, 29, 31, 32, 33, 34].map (memRead st) = st.bDay.toList.map some :=
  (map_memRead_eq (f := .bDay) (by decide) st).trans (map_getElem?_range st.bDay)

theorem map_memRead_year :
    [42, 43, 44, 45, 46, 47, 48, 49].map (memRead st) = st.bYr.toList.map some :=
  (map_memRead_eq (f := .bYr) (by decide) st).trans (map_getElem?_range st.bYr)

end

/-- Two vectors that are read through the same slots are equal where the slots read alike. -/
theorem vector_eq_of_reads {n : Nat} {v w : Vector Bool n} {slots : List Nat} {p q : Nat → Option Bool}
    (hv : slots.map p = v.toList.map some) (hw : slots.map q = w.toList.map some) (h : p = q) :
    v = w := by
  subst h
  exact Vector.toList_inj.1 (List.map_injective_iff.2 (Option.some_injective Bool) (hv.symm.trans hw))

/-- Stores that read alike at every address are one store: each field is what its slots read as. -/
theorem eq_of_memRead_eq {st st' : BitStore} (h : ∀ a, memRead st a = memRead st' a) : st = st' := by
  have hread : memRead st = memRead st' := funext h
  have hmin : st.bMin = st'.bMin :=
    vector_eq_of_reads (map_memRead_minute st) (map_memRead_minute st') hread
  have hhr : st.bHr = st'.bHr :=
    vector_eq_of_reads (map_memRead_hour st) (map_memRead_hour st') hread
  have hday : st.bDay = st'.bDay :=
    vector_eq_of_reads (map_memRead_day st) (map_memRead_day st') hread
  have hyr : st.bYr = st'.bYr :=
    vector_eq_of_reads (map_memRead_year st) (map_memRead_year st') hread
  cases st; cases st'
  cases hmin; cases hhr; cases hday; cases hyr
  rfl

/-- Settles O15: the cells of each field are what its slots read as, and so the reads determine the store. -/
theorem storeIsWhatItsAddressesRead : Obligations.StoreIsWhatItsAddressesRead :=
  ⟨fun _ _ => eq_of_memRead_eq, memRead_isSome, fun st =>
    ⟨map_memRead_minute st, map_memRead_hour st, map_memRead_day st, map_memRead_year st⟩⟩

/-- The mapped addresses are the slots of the address map, which lists them in rising order. -/
theorem mappedAddresses_eq :
    (List.range 61).filter (fun a => (mapSlot a).isSome) = positionTable.map MapRow.slot := by decide

/-- Settles O13: the rows and the unmapped addresses by evaluating the closed table, the 31 as the number of rows. -/
theorem thirtyOneAddressesAreMapped : Obligations.ThirtyOneAddressesAreMapped := by
  refine ⟨by decide, ?_, by decide, positionTable_cells_nodup, ?_⟩
  · rw [List.countP_eq_length_filter, mappedAddresses_eq, List.length_map]
    rfl
  · intro f w hfw
    fin_cases hfw <;> rfl

end Sys2Proof.Machine
end

section
/-! The decoder and the encoder of the selector against each other (30_encoding.md R73, R74, R75). -/

namespace Sys2Proof

/-- Decoding a step selector with a produced class code is a choice on its mode. -/
theorem decode_stepSelector (lower sync cand prev level : Bool) (c : DClass) :
    decode lower (packSelector false true sync cand prev level c.code) =
      .ok (if sync then decodeDecoding lower cand prev level c
        else decodeSearching cand prev level c) :=
  decode_packSelector lower false true sync cand prev level c

/-- Settles O1, operation by operation: each pattern's fixed bits lead the decoder to the operation's row, and the
operand condition of the pattern decides the class within the row. -/
theorem decodeGivesBackEveryEncodedOperation :
    Obligations.DecodeGivesBackEveryEncodedOperation := by
  intro lower i hwf
  cases i with
  | reset | nostep => rfl
  | sHold cand level c | dHold cand level c =>
    cases level <;> exact decode_stepSelector lower _ cand _ _ c
  | sRise c => exact decode_stepSelector lower false false false true c
  | dRise cand c => exact decode_stepSelector lower true cand false true c
  | sFallArm cand => exact decode_stepSelector lower false cand true false .mark
  | sRiseFound => exact decode_stepSelector lower false true false true .gap
  | sFallDrop cand c =>
    have hc : c ≠ .mark := by simpa [WellFormed] using hwf
    simp [encode, decode_stepSelector, decodeSearching, hc]
  | sRiseMiss c =>
    have hc : c ≠ .gap := by simpa [WellFormed] using hwf
    simp [encode, decode_stepSelector, decodeSearching, hc]
  | dFallOne cand => exact decode_stepSelector lower true cand true false .one
  | dFallZero cand => exact decode_stepSelector lower true cand true false .zero
  | dFallMark cand c =>
    have hc : eff lower c = .mark := by cases c <;> simp_all [WellFormed, eff]
    simp [encode, decode_stepSelector, decodeDecoding, decodeSlot, hc]
  | dFallInd cand c =>
    have hc : eff lower c = .outside := by cases c <;> simp_all [WellFormed, eff]
    simp [encode, decode_stepSelector, decodeDecoding, decodeSlot, hc]

/-- Settles O5: each of the seven words is the encoding of the operation that it decodes to. -/
theorem writtenOutSelectorsDecode : Obligations.WrittenOutSelectorsDecode :=
  have h := decodeGivesBackEveryEncodedOperation
  ⟨h true .reset rfl, h true .nostep rfl, h true (.sFallArm false) rfl, h true .sRiseFound rfl,
    h true (.dFallOne false) rfl, h true (.dFallInd false .short) rfl,
    h false (.dFallMark false .short) rfl⟩

/-- A selector is its bits in the order of 30_encoding.md R73. -/
theorem packSelector_bits (x : Selector) :
    packSelector (x.getLsbD 8) (x.getLsbD 7) (x.getLsbD 6) (x.getLsbD 5) (x.getLsbD 4) (x.getLsbD 3)
      (x.extractLsb' 0 3) = x := by
  unfold packSelector
  refine BitVec.eq_of_getLsbD_eq fun i hi => ?_
  simp only [BitVec.getLsbD_append, BitVec.getLsbD_extractLsb']
  interval_cases i <;> simp

/-- Bit 8 of a selector is `rst`. -/
theorem packSelector_rst (rst en sync cand prev level : Bool) (k : BitVec 3) :
    (packSelector rst en sync cand prev level k).getLsbD 8 = rst := by
  unfold packSelector
  simp only [BitVec.getLsbD_append]
  simp

/-- The two codes that stand for no class (30_encoding.md R75 (a)). -/
theorem DClass.ofCode_eq_none_iff (k : BitVec 3) : ofCode k = none ↔ k = 0b000#3 ∨ k = 0b111#3 := by
  revert k; decide

theorem DClass.code_eq_of_ofCode {k : BitVec 3} {c : DClass} (h : ofCode k = some c) : c.code = k := by
  revert k c; decide

/-- A selector whose class code is produced is packed from its bits and that class. -/
theorem packSelector_of_ofCode {x : Selector} {c : DClass} (h : DClass.ofCode (x.extractLsb' 0 3) = some c) :
    packSelector (x.getLsbD 8) (x.getLsbD 7) (x.getLsbD 6) (x.getLsbD 5) (x.getLsbD 4) (x.getLsbD 3)
      c.code = x := by
  rw [DClass.code_eq_of_ofCode h, packSelector_bits]

/-- A step selector with a code that stands for no class is refused. -/
theorem decode_of_ofCode_none {x : Selector} (lower : Bool) (hrst : x.getLsbD 8 = false)
    (hen : x.getLsbD 7 = true) (h : DClass.ofCode (x.extractLsb' 0 3) = none) :
    decode lower x = .error (.reservedClass (x.extractLsb' 0 3)) := by
  unfold decode
  rw [hrst, hen, h]
  rfl

/-- A selector with a produced class code is a choice on its bits. -/
theorem decode_of_ofCode_some {x : Selector} {c : DClass} (lower : Bool)
    (h : DClass.ofCode (x.extractLsb' 0 3) = some c) :
    decode lower x = .ok (if x.getLsbD 8 then .reset else if x.getLsbD 7 then
      (if x.getLsbD 6 then decodeDecoding lower (x.getLsbD 5) (x.getLsbD 4) (x.getLsbD 3) c
        else decodeSearching (x.getLsbD 5) (x.getLsbD 4) (x.getLsbD 3) c) else .nostep) := by
  rw [← decode_packSelector, packSelector_of_ofCode h]

/-- What the rows with `sync = 0` give is well formed, and its pattern is that of the row. -/
theorem decodeSearching_encodes_back (lower cand prev level : Bool) (c : DClass) :
    WellFormed lower (decodeSearching cand prev level c) = true ∧
      encode (decodeSearching cand prev level c) =
        packSelector false true false cand prev level c.code := by
  cases prev <;> cases level
  case false.false | true.true => exact ⟨rfl, rfl⟩
  case false.true =>
    cases cand
    · exact ⟨rfl, rfl⟩
    · by_cases hc : c = .gap <;> simp [decodeSearching, WellFormed, encode, hc]
  case true.false =>
    by_cases hc : c = .mark <;> simp [decodeSearching, WellFormed, encode, hc]

/-- What the falling-edge rows with `sync = 1` give is well formed, and its pattern is that of the row. -/
theorem decodeSlot_encodes_back (lower cand : Bool) (c : DClass) :
    WellFormed lower (decodeSlot lower cand c) = true ∧
      encode (decodeSlot lower cand c) = packSelector false true true cand true false c.code := by
  cases c with
  | short => cases lower <;> exact ⟨rfl, rfl⟩
  | _ => exact ⟨rfl, rfl⟩

/-- What the rows with `sync = 1` give is well formed, and its pattern is that of the row. -/
theorem decodeDecoding_encodes_back (lower cand prev level : Bool) (c : DClass) :
    WellFormed lower (decodeDecoding lower cand prev level c) = true ∧
      encode (decodeDecoding lower cand prev level c) =
        packSelector false true true cand prev level c.code := by
  cases prev <;> cases level
  case true.false => exact decodeSlot_encodes_back lower cand c
  all_goals exact ⟨rfl, rfl⟩

/-- The operation that a step selector's bits choose is well formed and encodes to those bits. -/
theorem stepRows_encode_back (lower sync cand prev level : Bool) (c : DClass) :
    WellFormed lower (if sync then decodeDecoding lower cand prev level c
        else decodeSearching cand prev level c) = true ∧
      encode (if sync then decodeDecoding lower cand prev level c
        else decodeSearching cand prev level c) =
        packSelector false true sync cand prev level c.code := by
  cases sync
  · exact decodeSearching_encodes_back lower cand prev level c
  · exact decodeDecoding_encodes_back lower cand prev level c

/-- Settles O2: an accepted step selector has a produced class code, so its bits choose a row, and the row's operation
encodes to those bits. -/
theorem stepSelectorsEncodeBack : Obligations.StepSelectorsEncodeBack := by
  intro lower x i hrst hen hi
  cases hc : DClass.ofCode (x.extractLsb' 0 3) with
  | none =>
    rw [decode_of_ofCode_none lower hrst hen hc] at hi
    cases hi
  | some c =>
    have hx := packSelector_of_ofCode hc
    rw [hrst, hen] at hx
    rw [decode_of_ofCode_some lower hc, hrst, hen] at hi
    cases hi
    obtain ⟨hwf, hencode⟩ := stepRows_encode_back lower (x.getLsbD 6) (x.getLsbD 5) (x.getLsbD 4)
      (x.getLsbD 3) c
    exact ⟨hwf, hencode.trans hx⟩

/-- Settles O4: a class's code is never one that stands for no class, and those are the codes that the decoder
refuses. -/
theorem reservedClassCodesAreRefused : Obligations.ReservedClassCodesAreRefused := by
  refine ⟨fun P d => ?_, fun lower x hrst hen => ?_⟩
  · have hcode : DClass.ofCode (Machine.wClass P d).code ≠ none := by simp
    rwa [Ne, DClass.ofCode_eq_none_iff, not_or] at hcode
  · rw [← DClass.ofCode_eq_none_iff]
    cases hc : DClass.ofCode (x.extractLsb' 0 3) with
    | none => simp [decode_of_ofCode_none lower hrst hen hc]
    | some c => simp [decode_of_ofCode_some lower hc]

end Sys2Proof
end

section
/-! The rows of the opcode table: every selector with a produced class code matches exactly one (30_encoding.md R74). -/

namespace Sys2Proof

/-- Two rows fix a common bit at different values. -/
def OpRow.Conflict (r q : OpRow) : Prop := r.mask &&& q.mask &&& (r.value ^^^ q.value) ≠ 0

/-- Every two rows of the table conflict. -/
theorem opcodeRows_pairwise_conflict : opcodeRows.Pairwise OpRow.Conflict := by
  unfold OpRow.Conflict
  decide

/-- No selector selects two rows that conflict: on the bits that both fix, it would have both values. -/
theorem OpRow.Conflict.not_selects {r q : OpRow} {x : Selector} (h : r.Conflict q)
    (hr : r.selects x = true) : q.selects x = false := by
  by_contra hq
  have hrv : x &&& r.mask = r.value := by simpa [selects] using hr
  have hqv : x &&& q.mask = q.value := by simpa [selects] using hq
  apply h
  rw [← hrv, ← hqv]
  have hbit : ∀ a m n : Bool, (m && n && ((a && m) ^^ (a && n))) = false := by decide
  ext i
  simp only [BitVec.getElem_and, BitVec.getElem_xor]
  exact (hbit _ _ _).trans (BitVec.getElem_zero _).symm

/-- Where any two members of a list that satisfy `p` would conflict, a member that satisfies `p` is the only one. -/
theorem filter_eq_singleton {α : Type} {R : α → α → Prop} {p : α → Bool}
    (hR : ∀ r q, R r q → p r = true → p q = false) {l : List α} (hl : l.Pairwise R) {r : α}
    (hr : r ∈ l) (hp : p r = true) : l.filter p = [r] := by
  induction hl with
  | nil => cases hr
  | @cons a l ha _ ih =>
    rcases List.mem_cons.1 hr with rfl | hmem
    · have : l.filter p = [] := by
        simpa [List.filter_eq_nil_iff] using fun q hq => hR r q (ha q hq) hp
      simp [hp, this]
    · have hpa : p a = false := by
        by_contra h
        simp [hR a r (ha r hmem) (by simpa using h)] at hp
      simp [hpa, ih hmem]

/-- The selector of every well-formed operation selects a row with the operation's mnemonic. -/
theorem exists_row_of_wellFormed {i : Instr} (hwf : WellFormed true i = true) :
    ∃ r ∈ opcodeRows, r.selects (encode i) = true ∧ i.mnemonic = r.mnemonic := by
  have h : Laws.InTable.Statement i := by
    cases i with
    | reset => exact Laws.InTable.reset
    | nostep => exact Laws.InTable.nostep
    | sHold cand level c => exact Laws.InTable.sHold cand level c
    | sRise c => exact Laws.InTable.sRise c
    | sFallArm cand => exact Laws.InTable.sFallArm cand
    | sFallDrop cand c => exact Laws.InTable.sFallDrop cand c
    | sRiseFound => exact Laws.InTable.sRiseFound
    | sRiseMiss c => exact Laws.InTable.sRiseMiss c
    | dHold cand level c => exact Laws.InTable.dHold cand level c
    | dRise cand c => exact Laws.InTable.dRise cand c
    | dFallMark cand c => exact Laws.InTable.dFallMark cand c
    | dFallOne cand => exact Laws.InTable.dFallOne cand
    | dFallZero cand => exact Laws.InTable.dFallZero cand
    | dFallInd cand c => exact Laws.InTable.dFallInd cand c
  obtain ⟨r, hmem, hr⟩ := List.any_eq_true.1 (h hwf)
  obtain ⟨hsel, hname⟩ := Bool.and_eq_true_iff.1 hr
  exact ⟨r, hmem, hsel, (beq_iff_eq.1 hname).symm⟩

/-- The row of RESET fixes `rst` alone. -/
theorem resetRow_selects {x : Selector} (hrst : x.getLsbD 8 = true) :
    (OpRow.mk "RESET" 0x100 0x100).selects x = true := by
  rw [OpRow.selects, beq_iff_eq]
  refine BitVec.eq_of_getLsbD_eq fun i hi => ?_
  interval_cases i <;> simp_all

/-- The row of NOSTEP fixes `rst` and `en` alone. -/
theorem nostepRow_selects {x : Selector} (hrst : x.getLsbD 8 = false) (hen : x.getLsbD 7 = false) :
    (OpRow.mk "NOSTEP" 0x000 0x180).selects x = true := by
  rw [OpRow.selects, beq_iff_eq]
  refine BitVec.eq_of_getLsbD_eq fun i hi => ?_
  interval_cases i <;> simp_all

/-- A selector with a produced class code selects a row with the mnemonic that the decoder gives. -/
theorem exists_row_of_ofCode {x : Selector} {c : DClass}
    (h : DClass.ofCode (x.extractLsb' 0 3) = some c) :
    ∃ r ∈ opcodeRows, r.selects x = true ∧ ∃ i, decode true x = .ok i ∧ i.mnemonic = r.mnemonic := by
  have hdecode := decode_of_ofCode_some true h
  cases hrst : x.getLsbD 8
  case true => exact ⟨_, by decide, resetRow_selects hrst, .reset, by rw [hdecode, hrst]; rfl, rfl⟩
  cases hen : x.getLsbD 7
  case false =>
    exact ⟨_, by decide, nostepRow_selects hrst hen, .nostep, by rw [hdecode, hrst, hen]; rfl, rfl⟩
  have hi : ∃ i, decode true x = .ok i := ⟨_, hdecode⟩
  obtain ⟨i, hi⟩ := hi
  obtain ⟨hwf, hencode⟩ := stepSelectorsEncodeBack true x i hrst hen hi
  obtain ⟨r, hmem, hsel, hname⟩ := exists_row_of_wellFormed hwf
  exact ⟨r, hmem, hencode ▸ hsel, i, hi, hname⟩

/-- Settles O3: a row is selected by the decoder's operation, and no second one since every two rows conflict. -/
theorem everySelectorMatchesExactlyOneRow : Obligations.EverySelectorMatchesExactlyOneRow := by
  intro x hx
  obtain ⟨c, hc⟩ := Option.ne_none_iff_exists'.1 hx
  obtain ⟨r, hmem, hsel, i, hi, hname⟩ := exists_row_of_ofCode hc
  have honly : opcodeRows.filter (fun r => r.selects x) = [r] :=
    filter_eq_singleton (fun _ _ h => h.not_selects) opcodeRows_pairwise_conflict hmem hsel
  exact ⟨r, i, honly, hi, hname⟩

end Sys2Proof
end

section
/-! The step through the selector: it is total, it runs the operation that the selector table selects, and that is the
one of the if-chain of 40_step_dispatch.md R100. -/

namespace Sys2Proof

/-- The rows with `sync = 0` name the operation that the if-chain reaches in Searching. -/
theorem mnemonic_decodeSearching (lower cand prev level : Bool) (c : DClass) :
    (decodeSearching cand prev level c).mnemonic =
      Machine.stepDispatch lower false cand prev level c := by
  cases prev <;> cases level
  case false.false | true.true => rfl
  case false.true =>
    cases cand
    · rfl
    · by_cases hc : c = .gap <;> simp [decodeSearching, Instr.mnemonic, Machine.stepDispatch, hc]
  case true.false =>
    by_cases hc : c = .mark <;> simp [decodeSearching, Instr.mnemonic, Machine.stepDispatch, hc]

/-- The rows with `sync = 1` name the operation that the if-chain reaches in Decoding. -/
theorem mnemonic_decodeDecoding (lower cand prev level : Bool) (c : DClass) :
    (decodeDecoding lower cand prev level c).mnemonic =
      Machine.stepDispatch lower true cand prev level c := by
  cases prev <;> cases level
  case true.false =>
    cases heff : eff lower c <;>
      simp [decodeDecoding, decodeSlot, Instr.mnemonic, Machine.stepDispatch, heff]
  all_goals rfl

end Sys2Proof

namespace Sys2Proof.Machine

/-- Every operation answers a next state at every state. -/
theorem exec_total (i : Instr) (s : State) : ∃ u, exec i s = .next u := by
  cases i <;> exact ⟨_, rfl⟩

/-- Settles O7: every state's selector decodes, and every operation answers a next state. -/
theorem everyStepAnswersANextState : Obligations.EveryStepAnswersANextState := by
  intro s
  obtain ⟨u, hu⟩ := exec_total _ s
  exact ⟨u.takeEdge, step_of_exec (fetch_eq s) hu⟩

/-- Settles O6, with what taking an edge leaves alone. -/
theorem stepRunsTheSelectedOperation : Obligations.StepRunsTheSelectedOperation :=
  fun _ t _ hi hu => ⟨step_of_exec hi hu, takeEdge_dec t, takeEdge_out t, takeEdge_params t⟩

/-- The operation that a decode step selects, as a choice on the mode. -/
theorem fetch_of_stepping {s : State} (h : s.Stepping) :
    s.fetch = .ok (if s.dec.sync then
        decodeDecoding s.params.decMarkLower s.dec.cand s.dec.prevLevel s.levelIn s.dclass
      else decodeSearching s.dec.cand s.dec.prevLevel s.levelIn s.dclass) := by
  obtain ⟨hrst, hen⟩ := h
  rw [fetch_eq, hrst, hen]
  rfl

/-- Settles O8, mode by mode. -/
theorem selectorTableAgreesWithTheStepFunction :
    Obligations.SelectorTableAgreesWithTheStepFunction := by
  intro s hst
  obtain ⟨hwf, -⟩ := stepRows_encode_back s.params.decMarkLower s.dec.sync s.dec.cand s.dec.prevLevel
    s.levelIn s.dclass
  refine ⟨_, fetch_of_stepping hst, hwf, ?_⟩
  cases s.dec.sync
  · exact mnemonic_decodeSearching ..
  · exact mnemonic_decodeDecoding ..

end Sys2Proof.Machine
end

section
/-! Durations: elapsed times modulo the counter's width (30_encoding.md R71), and their classes (R72). -/

namespace Sys2Proof.Machine

/-- A duration is determined by the residues of the two times it lies between. -/
theorem subMod_congr {w now now' last last' : Nat} (hn : now ≡ now' [MOD 2 ^ w])
    (hl : last ≡ last' [MOD 2 ^ w]) : subMod w now last = subMod w now' last' := by
  have hn' := Int.natCast_modEq_iff.2 hn
  have hl' := Int.natCast_modEq_iff.2 hl
  have h : (subMod w now last : Int) = subMod w now' last' := by
    rw [subMod_cast, subMod_cast]
    exact hn'.sub hl'
  exact_mod_cast h

/-- From a time to the time `e` later the duration is `e`, modulo the width. -/
theorem subMod_add_left (w last e : Nat) : subMod w (last + e) last = e % 2 ^ w := by
  have h : (subMod w (last + e) last : Int) = ((e % 2 ^ w : Nat) : Int) := by
    rw [subMod_cast]
    push_cast
    rw [add_sub_cancel_left]
  exact_mod_cast h

/-- Shifting both times by one amount leaves the duration. -/
theorem subMod_add_add (w now last k : Nat) : subMod w (now + k) (last + k) = subMod w now last := by
  unfold subMod
  rw [Nat.cast_add, Nat.cast_add, add_sub_add_right_eq_sub]

/-- Settles O11: reducing the two times modulo the width does not change the duration between them. -/
theorem durationIsTheElapsedTimeModuloTheWidth :
    Obligations.DurationIsTheElapsedTimeModuloTheWidth := by
  intro s T e hlast hnow
  have hd : s.duration = e % 2 ^ s.params.wMs := by
    unfold State.duration
    rw [hlast, hnow, subMod_congr (Nat.mod_modEq _ _) (Nat.mod_modEq _ _), subMod_add_left]
  exact ⟨hd, by rw [hd]; exact Nat.mod_eq_iff_lt (Nat.two_pow_pos _).ne'⟩

/-- The open window of a class (30_encoding.md R72), and for NONE the gaps between the windows. -/
def InWindow (P : Params) (d : Nat) : DClass → Prop
  | .short => d ≤ P.tMarkLo
  | .mark => P.tMarkLo < d ∧ d < P.tMarkHi
  | .one => P.tOneLo < d ∧ d < P.tOneHi
  | .zero => P.tZeroLo < d ∧ d < P.tZeroHi
  | .gap => P.tGapLo < d ∧ d < P.tGapHi
  | .outside => (P.tMarkHi ≤ d ∧ d ≤ P.tOneLo) ∨ (P.tOneHi ≤ d ∧ d ≤ P.tZeroLo) ∨
      (P.tZeroHi ≤ d ∧ d ≤ P.tGapLo) ∨ P.tGapHi ≤ d

/-- Under the constraints of 00_scope.md R7 a duration in a window has that window's class: the clauses of R72 before it
are about windows below. -/
theorem wClass_of_inWindow {P : Params} {d : Nat} (hP : P.Ordered) {c : DClass}
    (h : InWindow P d c) : wClass P d = c := by
  unfold wClass
  cases c <;> simp only [InWindow] at h
  case short => rw [if_pos h]
  case mark => rw [if_neg, if_pos] <;> omega
  case one => rw [if_neg, if_neg, if_pos] <;> omega
  case zero => rw [if_neg, if_neg, if_neg, if_pos] <;> omega
  case gap => rw [if_neg, if_neg, if_neg, if_neg, if_pos] <;> omega
  case outside => rw [if_neg, if_neg, if_neg, if_neg, if_neg] <;> omega

/-- Every duration is in the window of its class. -/
theorem inWindow_wClass (P : Params) (d : Nat) : InWindow P d (wClass P d) := by
  unfold wClass
  split_ifs <;> simp only [InWindow] <;> omega

/-- Under the constraints of 00_scope.md R7 each class is its window. -/
theorem wClass_eq_iff {P : Params} (hP : P.Ordered) (d : Nat) (c : DClass) :
    wClass P d = c ↔ InWindow P d c :=
  ⟨fun h => h ▸ inWindow_wClass P d, wClass_of_inWindow hP⟩

/-- Settles O12: the windows under the constraints, which the default parameters meet. -/
theorem durationClassesAreTheOpenWindows : Obligations.DurationClassesAreTheOpenWindows := by
  refine ⟨fun P d hP => ?_, by decide, fun d => ?_⟩
  · have h := wClass_eq_iff hP d
    exact ⟨h .short, h .mark, h .one, h .zero, h .gap, h .outside⟩
  · have h := wClass_eq_iff (P := Params.source) (by decide) d
    refine ⟨h .short, ?_, ?_, ?_, ?_⟩ <;> rw [h] <;> simp only [InWindow, Params.source] <;> omega

end Sys2Proof.Machine
end

section
/-! A placed selector is the selector of the next step (log entry 14). -/

namespace Sys2Proof.Machine

/-- At the default parameters the sample duration of a class has that class. -/
theorem wClass_sampleDuration (c : DClass) :
    wClass Params.source (sampleDuration Params.source c) = c := by
  cases c <;> rfl

/-- At the default parameters the sample durations are shorter than one turn of the counter. -/
theorem sampleDuration_lt (c : DClass) :
    sampleDuration Params.source c < 2 ^ Params.source.wMs := by
  cases c <;> decide

section
variable {s : State} {x : Selector} {c : DClass} (hP : s.params = Params.source)
  (hx : DClass.ofCode (x.extractLsb' 0 3) = some c)
include hP hx

/-- The edge that `placeSelector` puts first lies the sample duration of the selector's class after the latest rising
edge. -/
theorem duration_placeSelector :
    (s.placeSelector x).duration = sampleDuration Params.source c := by
  have hnow : (s.placeSelector x).nowIn ≡ s.dec.lastEdge + sampleDuration Params.source c
      [MOD 2 ^ s.params.wMs] := by
    simp only [State.placeSelector, State.nowIn, State.portIn, hx, hP, Option.getD_some]
    exact (Nat.mod_modEq _ _).trans (Nat.mod_modEq _ _)
  calc (s.placeSelector x).duration
      = subMod s.params.wMs (s.dec.lastEdge + sampleDuration Params.source c) s.dec.lastEdge :=
        subMod_congr hnow (Nat.ModEq.refl _)
    _ = sampleDuration Params.source c % 2 ^ s.params.wMs := subMod_add_left ..
    _ = sampleDuration Params.source c := by
        rw [hP]; exact Nat.mod_eq_of_lt (sampleDuration_lt c)

theorem selector_placeSelector : (s.placeSelector x).selector = x := by
  have hclass : (s.placeSelector x).dclass = c := by
    unfold State.dclass
    rw [duration_placeSelector hP hx]
    exact hP ▸ wClass_sampleDuration c
  unfold State.selector
  rw [hclass]
  exact packSelector_of_ofCode hx

end

/-- Settles O10: the placed bits and the sample duration's class make up the selector; the rest is what `placeSelector`
writes. -/
theorem placedSelectorIsTheNextOne : Obligations.PlacedSelectorIsTheNextOne := by
  intro s _ w hP _ hx
  obtain ⟨c, hc⟩ := Option.ne_none_iff_exists'.1 hx
  exact ⟨selector_placeSelector hP hc, rfl, rfl, rfl, rfl, _, rfl⟩

end Sys2Proof.Machine
end

section
/-! The outputs: the held ones (30_encoding.md R78), the result code (R76) and the event strobes (R77). -/

namespace Sys2Proof.Machine

/-- Settles O18: each member of `cur` is the upper part of the concatenation once the members below it are gone. -/
theorem heldOutputsShowTheState : Obligations.HeldOutputsShowTheState := by
  intro s
  unfold State.timeO TimePoint.pack
  refine ⟨rfl, BitVec.extractLsb'_append_eq_right, ?_, ?_, ?_⟩
  · rw [BitVec.extractLsb'_append_eq_of_le (by decide)]
    exact BitVec.extractLsb'_append_eq_right
  · rw [BitVec.extractLsb'_append_eq_of_le (by decide), BitVec.extractLsb'_append_eq_of_le (by decide)]
    exact BitVec.extractLsb'_append_eq_right
  · rw [BitVec.extractLsb'_append_eq_of_le (by decide), BitVec.extractLsb'_append_eq_of_le (by decide)]
    exact BitVec.extractLsb'_append_eq_left

/-- A marker drives its number with bit 3 set, and a marker-width pulse elsewhere is Indeterminate (30_encoding.md R76,
R80). -/
theorem code_classify_mark (n : Nat) :
    (classify .mark n).code =
      if n = 10 then 0x9 else if n = 20 then 0xA else if n = 30 then 0xB else if n = 40 then 0xC
      else if n = 50 then 0xD else 0x3 := by
  unfold classify markerAt
  split_ifs <;> rfl

/-- DecodeFall drives the result of its slot, whether the frame goes on or ends. -/
theorem decodeFall_out_res (cc : EffClass) (s : State) :
    (decodeFall cc s).out.res = classify cc s.dec.nextSlot := by
  rcases decodeFall_cases cc s with ⟨hn, hcc, h⟩ | ⟨-, h⟩ | ⟨-, -, h⟩ <;> rw [h]
  · rw [hcc, hn]
    rfl
  all_goals rfl

/-- Settles O34: the D.FALL operations drive the code of their slot's result, and the others none. -/
theorem resultCodesOfEveryOperation : Obligations.ResultCodesOfEveryOperation := by
  refine ⟨fun i s t h => ?_, fun r => by cases r <;> decide, fun r => by cases r <;> decide⟩
  cases i with
  | dFallMark =>
    cases h
    exact (congrArg SlotResult.code (decodeFall_out_res .mark s)).trans (code_classify_mark _)
  | dFallOne => cases h; exact congrArg SlotResult.code (decodeFall_out_res .one s)
  | dFallZero => cases h; exact congrArg SlotResult.code (decodeFall_out_res .zero s)
  | dFallInd => cases h; exact congrArg SlotResult.code (decodeFall_out_res .outside s)
  | _ => cases h; rfl

end Sys2Proof.Machine
end

section
/-! The event strobes (30_encoding.md R77), read off the cases of `StepCase`. -/

namespace Sys2Proof.Machine

/-- A slot ends at the coming edge: a falling edge in Decoding. -/
def State.SlotEnding (s : State) : Prop := s.dec.sync = true ∧ s.Falling

/-- A frame is found at the coming edge (41_frame_searcher.md R125). -/
def State.FrameFinding (s : State) : Prop :=
  s.Rising ∧ s.dec.sync = false ∧ s.dec.cand = true ∧ s.dclass = .gap

theorem State.Falling.not_holding {s : State} (h : s.Falling) : ¬s.Holding := by
  obtain ⟨-, hhigh, hlevel⟩ := h
  rintro ⟨-, hsame⟩
  simp [hhigh, hlevel] at hsame

section
variable {s : State} {d : DecoderState} {o : Outputs}

/-- `found_o` is driven exactly where a frame is found. -/
theorem StepCase.found_iff (h : StepCase s d o) : o.found = true ↔ s.FrameFinding := by
  constructor
  · intro hfound
    cases h with
    | sRiseFound hr hsync hcand hgap => exact ⟨hr, hsync, hcand, hgap⟩
    | _ => cases hfound
  · rintro ⟨hr, hsync, hcand, hgap⟩
    have ⟨⟨hrst, hen⟩, _⟩ := hr
    cases h with
    | reset hrst' => simp [hrst] at hrst'
    | nostep _ hen' => simp [hen] at hen'
    | hold hh => exact absurd hh hr.not_holding
    | sRise _ _ hcand' => simp [hcand] at hcand'
    | sRiseFound => rfl
    | sRiseMiss _ _ _ hmiss => exact absurd hgap hmiss
    | dRise _ hsync' => simp [hsync] at hsync'
    | sFallArm hf | sFallDrop hf | slot _ hf | complete hf | overflow _ hf =>
      exact absurd hf hr.not_falling

/-- Where a slot ends, the result is that of the slot, and the position decides whether the frame completes, overflows
or goes on (43_frame_accumulator.md R162). -/
theorem StepCase.out_of_slotEnding (h : StepCase s d o) (hs : s.SlotEnding) :
    o.res = classify (eff s.params.decMarkLower s.dclass) s.dec.nextSlot ∧
      (o.complete = true ↔ s.dec.nextSlot = 50 ∧ eff s.params.decMarkLower s.dclass = .mark) ∧
      (o.overflow = true ↔ 60 ≤ s.dec.nextSlot) := by
  obtain ⟨hsync, hf⟩ := hs
  have ⟨⟨hrst, hen⟩, _⟩ := hf
  cases h with
  | reset hrst' => simp [hrst] at hrst'
  | nostep _ hen' => simp [hen] at hen'
  | hold hh => exact absurd hh hf.not_holding
  | sRise hr | sRiseFound hr | sRiseMiss hr | dRise hr => exact absurd hf hr.not_falling
  | sFallArm _ hsync' | sFallDrop _ hsync' => simp [hsync] at hsync'
  | slot cc _ _ heff hne hn => subst heff; simpa [hn] using hne
  | complete _ _ heff hn => simp [heff, hn, classify, markerAt]
  | overflow cc _ _ heff hn =>
    have hne : s.dec.nextSlot ≠ 50 := by omega
    simp [heff, hne, hn]

/-- Where no slot ends, no result is driven and no frame ends. -/
theorem StepCase.out_of_not_slotEnding (h : StepCase s d o) (hs : ¬s.SlotEnding) :
    o.res = .none ∧ o.complete = false ∧ o.overflow = false := by
  cases h with
  | slot _ hf hsync | complete hf hsync | overflow _ hf hsync => exact absurd ⟨hsync, hf⟩ hs
  | _ => exact ⟨rfl, rfl, rfl⟩

theorem StepCase.complete_iff (h : StepCase s d o) :
    o.complete = true ↔
      s.SlotEnding ∧ s.dec.nextSlot = 50 ∧ eff s.params.decMarkLower s.dclass = .mark := by
  by_cases hs : s.SlotEnding
  · simp [h.out_of_slotEnding hs, hs]
  · simp [h.out_of_not_slotEnding hs, hs]

theorem StepCase.overflow_iff (h : StepCase s d o) :
    o.overflow = true ↔ s.SlotEnding ∧ 60 ≤ s.dec.nextSlot := by
  by_cases hs : s.SlotEnding
  · simp [h.out_of_slotEnding hs, hs]
  · simp [h.out_of_not_slotEnding hs, hs]

/-- What each strobe says about the result. -/
theorem StepCase.res_of_complete (h : StepCase s d o) (hc : o.complete = true) : o.res = .markP5 := by
  obtain ⟨hs, hn, heff⟩ := h.complete_iff.1 hc
  rw [(h.out_of_slotEnding hs).1, hn, heff]
  rfl

theorem StepCase.res_of_overflow (h : StepCase s d o) (hov : o.overflow = true) :
    o.res = .zero ∨ o.res = .one ∨ o.res = .indet := by
  obtain ⟨hs, hn⟩ := h.overflow_iff.1 hov
  rw [(h.out_of_slotEnding hs).1]
  cases eff s.params.decMarkLower s.dclass with
  | mark =>
    have hmark : markerAt s.dec.nextSlot = none := by
      unfold markerAt
      rw [if_neg, if_neg, if_neg, if_neg, if_neg] <;> omega
    simp [classify, hmark]
  | one | zero | outside => simp [classify]

end

theorem State.FrameFinding.not_slotEnding {s : State} (h : s.FrameFinding) : ¬s.SlotEnding := by
  obtain ⟨hr, -⟩ := h
  exact fun hs => hr.not_falling hs.2

/-- S.RISE.FOUND is selected exactly where a frame is found: it is the operation that drives `found_o`. -/
theorem fetch_eq_sRiseFound_iff (s : State) : s.fetch = .ok .sRiseFound ↔ s.FrameFinding := by
  constructor
  · intro h
    obtain ⟨hcase, -⟩ := step_case (step_of_exec h rfl)
    exact hcase.found_iff.1 (by rw [takeEdge_out]; rfl)
  · rintro ⟨⟨hst, hprev, hlevel⟩, hsync, hcand, hgap⟩
    rw [fetch_of_stepping hst, hsync, hprev, hlevel, hcand, hgap]
    rfl

/-- Settles O35: the three strobes have conditions that shut each other out, and the result is that of the slot. -/
theorem eventStrobesOfEveryStep : Obligations.EventStrobesOfEveryStep := by
  intro s t h
  obtain ⟨hcase, -⟩ := step_case h
  have hfound : t.foundO = true ↔ s.FrameFinding := hcase.found_iff
  have hcomplete : t.completeO = true ↔ _ := hcase.complete_iff
  have hoverflow : t.overflowO = true ↔ _ := hcase.overflow_iff
  refine ⟨hfound.trans (fetch_eq_sRiseFound_iff s).symm, hcomplete.trans and_assoc,
    hoverflow.trans and_assoc, ?_, ?_, ?_, fun hc => ?_, fun hov => ?_, fun hf => ?_⟩
  · rintro ⟨hf, hc⟩
    exact (hfound.1 hf).not_slotEnding (hcomplete.1 hc).1
  · rintro ⟨hf, hov⟩
    exact (hfound.1 hf).not_slotEnding (hoverflow.1 hov).1
  · rintro ⟨hc, hov⟩
    obtain ⟨-, h50, -⟩ := hcomplete.1 hc
    obtain ⟨-, h60⟩ := hoverflow.1 hov
    omega
  · exact congrArg SlotResult.code (hcase.res_of_complete hc)
  · unfold State.resO
    rcases hcase.res_of_overflow hov with hr | hr | hr <;> rw [hr] <;> decide
  · exact congrArg SlotResult.code
      (hcase.out_of_not_slotEnding (hfound.1 hf).not_slotEnding).1

end Sys2Proof.Machine
end

section
/-! Shifting every time by one amount (30_encoding.md R71, 40_step_dispatch.md R105): the operations see differences of
times only, so a RESET-free run on the shifted inputs is the shifted run. -/

namespace Sys2Proof.Machine

/-- The DecoderState in which the recorded edge is `k` milliseconds later, with a counter of `w` bits. -/
def DecoderState.later (w k : Nat) (d : DecoderState) : DecoderState :=
  { d with lastEdge := (d.lastEdge + k) % 2 ^ w }

/-- The input edge whose time is `k` milliseconds later. -/
def edgeLater (k : Nat) (e : PortIn) : PortIn := { e with now := e.now + k }

/-- Shifting a state shifts its recorded edge and the edges presented to it. -/
theorem later_eq (s : State) (k : Nat) :
    s.later k = { s with
      dec := s.dec.later s.params.wMs k
      pending := s.pending.map (edgeLater k) } := rfl

/-- Accumulate neither reads nor writes the recorded edge. -/
theorem accumulate_later (w k n : Nat) (res : SlotResult) (d : DecoderState) :
    accumulate n res (d.later w k) = (accumulate n res d).later w k := by
  cases res <;> rfl

/-- FrameCheck neither reads nor writes the recorded edge. -/
theorem frameCheck_later (w k : Nat) (cells : BitStore) (n : Nat) (res : SlotResult)
    (d : DecoderState) :
    frameCheck cells n res (d.later w k) =
      ((frameCheck cells n res d).1.later w k, (frameCheck cells n res d).2) := by
  unfold frameCheck
  split_ifs <;> rfl

/-- Without `rst` the operation is not RESET. -/
theorem fetch_ne_reset {s : State} (h : s.portIn.rst = false) : s.fetch ≠ .ok .reset := by
  cases hen : s.portIn.stepEn
  · rw [fetch_eq, h, hen]
    simp
  · rw [fetch_of_stepping ⟨h, hen⟩]
    intro hreset
    obtain ⟨-, hencode⟩ := stepRows_encode_back s.params.decMarkLower s.dec.sync s.dec.cand
      s.dec.prevLevel s.levelIn s.dclass
    rw [Except.ok.inj hreset] at hencode
    have hbit := congrArg (BitVec.getLsbD · 8) hencode
    rw [encode, packSelector_rst, packSelector_rst] at hbit
    cases hbit

section
variable {s : State} {e : PortIn} {es : List PortIn} (hs : s.pending = e :: es) (k : Nat)
include hs

theorem portIn_later : (s.later k).portIn = edgeLater k s.portIn := by
  have hk : (s.later k).pending = edgeLater k e :: es.map (edgeLater k) := by
    rw [later_eq, hs]
    rfl
  rw [portIn_pending hk, portIn_pending hs]

/-- Shifting keeps the sampled level. -/
theorem levelIn_later : (s.later k).levelIn = s.levelIn := by
  unfold State.levelIn
  rw [portIn_later hs]
  rfl

/-- Shifting shifts the sampled time, modulo the width. -/
theorem nowIn_later : (s.later k).nowIn = (s.nowIn + k) % 2 ^ s.params.wMs := by
  unfold State.nowIn
  rw [portIn_later hs, Nat.mod_add_mod]
  rfl

/-- Shifting keeps the duration: both times it lies between are shifted. -/
theorem duration_later : (s.later k).duration = s.duration :=
  calc (s.later k).duration
      = subMod s.params.wMs ((s.nowIn + k) % 2 ^ s.params.wMs)
          ((s.dec.lastEdge + k) % 2 ^ s.params.wMs) := by
        rw [← nowIn_later hs]
        rfl
    _ = subMod s.params.wMs (s.nowIn + k) (s.dec.lastEdge + k) :=
        subMod_congr (Nat.mod_modEq _ _) (Nat.mod_modEq _ _)
    _ = s.duration := subMod_add_add ..

/-- Shifting keeps the selector, and so the selected operation. -/
theorem fetch_later : (s.later k).fetch = s.fetch := by
  have hclass : (s.later k).dclass = s.dclass := congrArg (wClass s.params) (duration_later hs k)
  have hselector : (s.later k).selector = s.selector := by
    unfold State.selector
    rw [hclass, levelIn_later hs, portIn_later hs]
    rfl
  unfold State.fetch
  rw [hselector]
  rfl

theorem takeEdge_later : (s.later k).takeEdge = s.takeEdge.later k := by
  have hk : (s.later k).pending = edgeLater k e :: es.map (edgeLater k) := by
    rw [later_eq, hs]
    rfl
  rw [takeEdge_pending hk, takeEdge_pending hs]
  rfl

/-- Recording the shifted edge is shifting the recorded edge. -/
theorem stampEdge_later (d : DecoderState) :
    (s.later k).stampEdge (d.later s.params.wMs k) = (s.stampEdge d).later s.params.wMs k := by
  unfold State.stampEdge
  rw [nowIn_later hs]
  rfl

/-- A step's end shifts with the DecoderState it stores. -/
theorem endStep_later (d : DecoderState) (o : Outputs) :
    (s.later k).endStep (d.later s.params.wMs k) o = (s.endStep d o).later k := by
  unfold State.endStep
  rw [levelIn_later hs]
  rfl

theorem decodeFall_later (cc : EffClass) : decodeFall cc (s.later k) = (decodeFall cc s).later k := by
  rw [decodeFall_eq cc s, ← endStep_later hs]
  have hdec : (s.later k).dec = s.dec.later s.params.wMs k := rfl
  have hslot : (s.dec.later s.params.wMs k).nextSlot = s.dec.nextSlot := rfl
  rw [decodeFall_eq, hdec, hslot, accumulate_later, frameCheck_later]
  rfl

/-- Every operation but RESET takes the shifted state to the shifted next state; RESET loads a fixed time. -/
theorem exec_later {i : Instr} {u : State} (hi : i ≠ .reset) (hu : exec i s = .next u) :
    exec i (s.later k) = .next (u.later k) := by
  cases i with
  | reset => exact absurd rfl hi
  | nostep => cases hu; rfl
  | sHold | dHold => cases hu; exact congrArg _ (endStep_later hs k _ _)
  | sRise | sRiseMiss | sRiseFound | dRise =>
    cases hu
    rw [← endStep_later hs, ← stampEdge_later hs]
    rfl
  | sFallArm | sFallDrop =>
    cases hu
    rw [← endStep_later hs]
    rfl
  | dFallMark | dFallOne | dFallZero | dFallInd =>
    cases hu
    exact congrArg _ (decodeFall_later hs k _)

/-- A step without RESET takes the shifted state to the shifted next state. -/
theorem step_later {t : State} (hrst : e.rst = false) (h : step s = .next t) :
    step (s.later k) = .next (t.later k) := by
  obtain ⟨i, u, hi, hu, rfl⟩ := step_cases h
  have hne : i ≠ .reset := by
    rintro rfl
    exact fetch_ne_reset (by rw [portIn_pending hs, hrst]) hi
  have hpending : u.pending = e :: es := (exec_keeps_inputs hu).2.1.trans hs
  rw [step_of_exec ((fetch_later hs k).trans hi) (exec_later hs k hne hu), takeEdge_later hpending]

end

/-- A RESET-free run on the shifted inputs from the shifted state ends in the shifted final state. -/
theorem feed_later (k : Nat) {es : List PortIn} (hes : ∀ e ∈ es, e.rst = false) {s t : State}
    (h : feed s es = .next t) :
    feed (s.later k) (es.map (edgeLater k)) = .next (t.later k) := by
  induction es generalizing s with
  | nil =>
    cases h
    rfl
  | cons e es ih =>
    obtain ⟨hrst, hrest⟩ := List.forall_mem_cons.1 hes
    obtain ⟨u, hu⟩ := everyStepAnswersANextState { s with pending := e :: es }
    have hlater : step { s.later k with pending := (e :: es).map (edgeLater k) } = .next (u.later k) :=
      step_later (s := { s with pending := e :: es }) rfl k hrst hu
    rw [feed_cons hu] at h
    rw [List.map_cons, feed_cons hlater]
    exact ih hrest h

/-- Settles O45, by induction on the run: a step commutes with the shift, and RESET, which does not, is left out. -/
theorem onlyTimeDifferencesMatter : Obligations.OnlyTimeDifferencesMatter :=
  fun _ _ _ k hes h => feed_later k hes h

end Sys2Proof.Machine
end

section
/-! When each operation is selected (30_encoding.md R74, 40_step_dispatch.md R100, R101, R103). -/

namespace Sys2Proof.Machine

/-- The mode, the candidate and the kind of edge that an operation is selected in. -/
def State.Selects (s : State) : Instr → Prop
  | .reset => s.portIn.rst = true
  | .nostep => s.portIn.rst = false ∧ s.portIn.stepEn = false
  | .sHold _ _ _ => s.dec.sync = false ∧ s.Holding
  | .sRise _ => s.dec.sync = false ∧ s.dec.cand = false ∧ s.Rising
  | .sFallArm _ => s.dec.sync = false ∧ s.Falling
  | .sFallDrop _ _ => s.dec.sync = false ∧ s.Falling
  | .sRiseFound => s.dec.sync = false ∧ s.dec.cand = true ∧ s.Rising
  | .sRiseMiss _ => s.dec.sync = false ∧ s.dec.cand = true ∧ s.Rising
  | .dHold _ _ _ => s.dec.sync = true ∧ s.Holding
  | .dRise _ _ => s.dec.sync = true ∧ s.Rising
  | .dFallMark _ _ => s.dec.sync = true ∧ s.Falling
  | .dFallOne _ => s.dec.sync = true ∧ s.Falling
  | .dFallZero _ => s.dec.sync = true ∧ s.Falling
  | .dFallInd _ _ => s.dec.sync = true ∧ s.Falling

theorem selects_decodeSearching {s : State} (hst : s.Stepping) (hs : s.dec.sync = false) :
    s.Selects (decodeSearching s.dec.cand s.dec.prevLevel s.levelIn s.dclass) := by
  cases hp : s.dec.prevLevel <;> cases hl : s.levelIn
  case false.false | true.true => exact ⟨hs, hst, hl.trans hp.symm⟩
  case false.true =>
    have hr : s.Rising := ⟨hst, hp, hl⟩
    cases hc : s.dec.cand
    · exact ⟨hs, hc, hr⟩
    · change s.Selects (if s.dclass = .gap then .sRiseFound else .sRiseMiss s.dclass)
      split <;> exact ⟨hs, hc, hr⟩
  case true.false =>
    have hf : s.Falling := ⟨hst, hp, hl⟩
    change s.Selects (if s.dclass = .mark then .sFallArm _ else .sFallDrop _ s.dclass)
    split <;> exact ⟨hs, hf⟩

theorem selects_decodeDecoding {s : State} (hst : s.Stepping) (hs : s.dec.sync = true) :
    s.Selects
      (decodeDecoding s.params.decMarkLower s.dec.cand s.dec.prevLevel s.levelIn s.dclass) := by
  cases hp : s.dec.prevLevel <;> cases hl : s.levelIn
  case false.false | true.true => exact ⟨hs, hst, hl.trans hp.symm⟩
  case false.true => exact ⟨hs, hst, hp, hl⟩
  case true.false =>
    have hf : s.Falling := ⟨hst, hp, hl⟩
    unfold decodeDecoding decodeSlot
    cases eff s.params.decMarkLower s.dclass <;> exact ⟨hs, hf⟩

/-- An operation runs in its own mode and on its own kind of edge only. -/
theorem selects_of_fetch {s : State} {i : Instr} (h : s.fetch = .ok i) : s.Selects i := by
  cases hrst : s.portIn.rst
  · cases hen : s.portIn.stepEn
    · rw [fetch_eq, hrst, hen] at h
      cases h
      exact ⟨hrst, hen⟩
    · have hst : s.Stepping := ⟨hrst, hen⟩
      rw [fetch_of_stepping hst] at h
      cases hs : s.dec.sync <;> rw [hs] at h <;> cases h
      · exact selects_decodeSearching hst hs
      · exact selects_decodeDecoding hst hs
  · rw [fetch_eq, hrst] at h
    cases h
    exact hrst

/-- Settles O20: NOSTEP writes the outputs alone, and no decode step and no reset cycle selects it. -/
theorem nostepChangesNoState : Obligations.NostepChangesNoState := by
  refine fun s => ⟨⟨selects_of_fetch, fun ⟨hrst, hen⟩ => ?_⟩, _, rfl, rfl, rfl, rfl, rfl, rfl, rfl, rfl⟩
  rw [fetch_eq, hrst, hen]
  rfl

end Sys2Proof.Machine
end

section
/-! What a decode step leaves alone (40_step_dispatch.md R104), read off the cases of `StepCase`. -/

namespace Sys2Proof.Machine

theorem State.Falling.not_rising {s : State} (h : s.Falling) : ¬s.Rising :=
  fun hr => hr.not_falling h

theorem State.Holding.not_rising {s : State} (h : s.Holding) : ¬s.Rising :=
  fun hr => hr.not_holding h

section
variable {s : State} {d : DecoderState} {o : Outputs}

/-- Only RESET writes `prev`, `status` and `error`. -/
theorem StepCase.constants_of_not_rst (h : StepCase s d o) (hrst : s.portIn.rst = false) :
    d.prev = s.dec.prev ∧ d.status = s.dec.status ∧ d.error = s.dec.error := by
  cases h with
  | reset hrst' => simp [hrst] at hrst'
  | slot => simp
  | _ => exact ⟨rfl, rfl, rfl⟩

/-- But for RESET, only FrameComplete writes `cur`. -/
theorem StepCase.cur_of_not_complete (h : StepCase s d o) (hrst : s.portIn.rst = false)
    (hc : o.complete = false) : d.cur = s.dec.cur := by
  cases h with
  | reset hrst' => simp [hrst] at hrst'
  | complete => cases hc
  | slot => simp
  | _ => rfl

/-- In Searching, but for RESET, only S.RISE.FOUND writes the position or a cell. -/
theorem StepCase.frame_of_searching (h : StepCase s d o) (hrst : s.portIn.rst = false)
    (hs : s.dec.sync = false) (hf : o.found = false) :
    d.slot = s.dec.slot ∧ d.cells = s.dec.cells := by
  cases h with
  | reset hrst' => simp [hrst] at hrst'
  | sRiseFound => cases hf
  | slot _ _ hs' | complete _ hs' | overflow _ _ hs' => simp [hs] at hs'
  | _ => exact ⟨rfl, rfl⟩

/-- But for RESET, only a rising edge writes `lastEdge`. -/
theorem StepCase.lastEdge_of_not_rising (h : StepCase s d o) (hrst : s.portIn.rst = false)
    (hr : ¬s.Rising) : d.lastEdge = s.dec.lastEdge := by
  cases h with
  | reset hrst' => simp [hrst] at hrst'
  | sRise hr' | sRiseFound hr' | sRiseMiss hr' | dRise hr' => exact absurd hr' hr
  | slot => simp
  | _ => rfl

end

/-- Settles O41, field by field. -/
theorem whatEveryStepLeavesUntouched : Obligations.WhatEveryStepLeavesUntouched := by
  rintro s t ⟨hrst, -⟩ h
  obtain ⟨hcase, -⟩ := step_case h
  obtain ⟨hprev, hstatus, herror⟩ := hcase.constants_of_not_rst hrst
  refine ⟨hprev, hstatus, herror, hcase.cur_of_not_complete hrst, hcase.frame_of_searching hrst, ?_⟩
  rintro (hf | hh)
  · exact hcase.lastEdge_of_not_rising hrst hf.not_rising
  · exact hcase.lastEdge_of_not_rising hrst hh.not_rising

end Sys2Proof.Machine
end

section
/-! The mode transition table (40_step_dispatch.md R108). -/

namespace Sys2Proof.Machine

/-- A falling edge in Decoding ends the frame, at position 60 or at 50 with a marker, in Searching with the pin low; at
any other position it stays in Decoding and moves the position on by 1. -/
theorem decodeFall_mode (cc : EffClass) {s : State} (hle : s.dec.slot.toNat ≤ 59)
    (hs : s.dec.sync = true) (hf : s.Falling) :
    if (s.dec.nextSlot = 50 ∧ cc = .mark) ∨ s.dec.nextSlot = 60 then
      (decodeFall cc s).dec.sync = false ∧ (decodeFall cc s).dec.slot = 0 ∧
        ((decodeFall cc s).dec.cand, (decodeFall cc s).dec.prevLevel) = (false, false)
    else (decodeFall cc s).dec.sync = true ∧
      (decodeFall cc s).dec.slot.toNat = s.dec.nextSlot := by
  obtain ⟨-, -, hlevel⟩ := hf
  have hn : s.dec.nextSlot = s.dec.slot.toNat + 1 := rfl
  rcases decodeFall_cases cc s with ⟨h50, hcc, h⟩ | ⟨h60, h⟩ | ⟨hne, hlt, h⟩ <;> rw [h]
  · rw [if_pos (.inl ⟨h50, hcc⟩)]
    simp [hlevel]
  · rw [if_pos (.inr (by omega))]
    simp [hlevel]
  · rw [if_neg (not_or.2 ⟨hne, by omega⟩)]
    exact ⟨(accumulate_sync ..).trans hs, toNat_slot_of_lt hlt⟩

/-- Without a marker only position 60 ends the frame. -/
theorem decodeFall_mode_of_ne_mark {cc : EffClass} (hcc : cc ≠ .mark) {s : State}
    (hle : s.dec.slot.toNat ≤ 59) (hs : s.dec.sync = true) (hf : s.Falling) :
    if s.dec.slot.toNat + 1 = 60 then
      (decodeFall cc s).dec.sync = false ∧ (decodeFall cc s).dec.slot = 0 ∧
        ((decodeFall cc s).dec.cand, (decodeFall cc s).dec.prevLevel) = (false, false)
    else (decodeFall cc s).dec.sync = true ∧
      (decodeFall cc s).dec.slot.toNat = s.dec.slot.toNat + 1 := by
  simpa [hcc, DecoderState.nextSlot] using decodeFall_mode cc hle hs hf

/-- In the reachable states an armed candidate means that the pin is low. -/
theorem not_cand_and_prevLevel_of_reachable {s : State} (h : Reachable s) :
    ¬(s.dec.sync = false ∧ s.dec.cand = true ∧ s.dec.prevLevel = true) := by
  rintro ⟨-, hc, hp⟩
  obtain ⟨-, hlow⟩ := (inv_of_reachable h).candidate hc
  simp [hlow] at hp

/-- Settles O43, operation by operation: the mode and the sub-state before it are where it is selected, with the
invariant's position in Searching, and those after it are what it writes. -/
theorem modeTransitionTable : Obligations.ModeTransitionTable := by
  refine ⟨fun _ => not_cand_and_prevLevel_of_reachable, fun s t i hinv hi ht => ?_⟩
  have hsel := selects_of_fetch hi
  cases i with
  | reset => cases ht; exact ⟨rfl, rfl⟩
  | nostep => cases ht; rfl
  | sHold =>
    obtain ⟨hs, -, hlevel⟩ := hsel
    have hdec : { s.dec with prevLevel := s.levelIn } = s.dec := by rw [hlevel]
    cases ht
    exact ⟨hs, hdec, hinv.searching hs⟩
  | sRise =>
    obtain ⟨hs, hc, -, hp, hlevel⟩ := hsel
    cases ht
    simp [hs, hc, hp, hlevel, hinv.searching hs]
  | sFallArm | sFallDrop =>
    obtain ⟨hs, -, hp, hlevel⟩ := hsel
    have hc : s.dec.cand = false := by
      by_contra hc
      obtain ⟨-, hlow⟩ := hinv.candidate (by simpa using hc)
      simp [hp] at hlow
    cases ht
    simp [hs, hc, hp, hlevel, hinv.searching hs]
  | sRiseFound | sRiseMiss =>
    obtain ⟨hs, hc, -, hp, hlevel⟩ := hsel
    cases ht
    simp [hs, hc, hp, hlevel, hinv.searching hs]
  | dHold | dRise =>
    obtain ⟨hs, -⟩ := hsel
    cases ht
    exact ⟨hs, hs, rfl⟩
  | dFallMark =>
    obtain ⟨hs, hf⟩ := hsel
    cases ht
    exact ⟨hs, by simpa [DecoderState.nextSlot] using decodeFall_mode .mark hinv.slotLe hs hf⟩
  | dFallOne | dFallZero | dFallInd =>
    obtain ⟨hs, hf⟩ := hsel
    cases ht
    exact ⟨hs, decodeFall_mode_of_ne_mark (by decide) hinv.slotLe hs hf⟩

end Sys2Proof.Machine
end

section
/-! The input edges that nothing sees: the holds and NOSTEP (40_step_dispatch.md R103, R105). -/

namespace Sys2Proof

/-- The edge is no reset cycle, and if it performs a decode step, its level is the one the block last saw. -/
def PortIn.Idle (level : Bool) (e : PortIn) : Prop :=
  e.rst = false ∧ (e.stepEn = true → e.level = level)

end Sys2Proof

namespace Sys2Proof.Machine

section
variable {s : State}

theorem State.Holding.idle (h : s.Holding) : s.portIn.Idle s.dec.prevLevel := by
  obtain ⟨⟨hrst, -⟩, hlevel⟩ := h
  exact ⟨hrst, fun _ => hlevel⟩

/-- A decode step on an idle edge is a hold. -/
theorem State.Stepping.holding_of_idle (h : s.Stepping) (hidle : s.portIn.Idle s.dec.prevLevel) :
    s.Holding := by
  obtain ⟨-, hlevel⟩ := hidle
  exact ⟨h, hlevel h.2⟩

theorem State.Rising.not_idle (h : s.Rising) : ¬s.portIn.Idle s.dec.prevLevel :=
  fun hidle => h.not_holding (h.1.holding_of_idle hidle)

theorem State.Falling.not_idle (h : s.Falling) : ¬s.portIn.Idle s.dec.prevLevel :=
  fun hidle => h.not_holding (h.1.holding_of_idle hidle)

/-- The idle edges are those that select a hold or NOSTEP. -/
theorem isIdle_iff_of_fetch {i : Instr} (h : s.fetch = .ok i) :
    isIdle i = true ↔ s.portIn.Idle s.dec.prevLevel := by
  have hsel := selects_of_fetch h
  cases i with
  | reset =>
    have hrst : s.portIn.rst = true := hsel
    simp [isIdle, PortIn.Idle, hrst]
  | nostep =>
    obtain ⟨hrst, hen⟩ := hsel
    simp [isIdle, PortIn.Idle, hrst, hen]
  | sHold | dHold =>
    obtain ⟨-, hh⟩ := hsel
    exact iff_of_true rfl hh.idle
  | sRise | sRiseFound | sRiseMiss =>
    obtain ⟨-, -, hr⟩ := hsel
    exact iff_of_false Bool.false_ne_true hr.not_idle
  | dRise =>
    obtain ⟨-, hr⟩ := hsel
    exact iff_of_false Bool.false_ne_true hr.not_idle
  | sFallArm | sFallDrop | dFallMark | dFallOne | dFallZero | dFallInd =>
    obtain ⟨-, hf⟩ := hsel
    exact iff_of_false Bool.false_ne_true hf.not_idle

/-- An idle edge leaves DecoderState as it is. -/
theorem StepCase.dec_of_idle {d : DecoderState} {o : Outputs} (h : StepCase s d o)
    (hidle : s.portIn.Idle s.dec.prevLevel) : d = s.dec := by
  cases h with
  | reset hrst =>
    obtain ⟨hrst', -⟩ := hidle
    simp [hrst] at hrst'
  | nostep | hold => rfl
  | sRise hr | sRiseFound hr | sRiseMiss hr | dRise hr => exact absurd hidle hr.not_idle
  | sFallArm hf | sFallDrop hf | slot _ hf | complete hf | overflow _ hf =>
    exact absurd hidle hf.not_idle

/-- A reset cycle loads the reset values. -/
theorem step_dec_of_rst {t : State} (h : step s = .next t) (hrst : s.portIn.rst = true) :
    t.dec = DecoderState.reset := by
  obtain ⟨i, u, hi, hu, rfl⟩ := step_cases h
  rw [fetch_eq, hrst] at hi
  cases hi
  cases hu
  exact takeEdge_dec _

/-- An edge that is not idle leaves its level as the one last seen, and RESET leaves 0. -/
theorem step_prevLevel_of_not_idle {t : State} (h : step s = .next t)
    (hidle : ¬s.portIn.Idle s.dec.prevLevel) :
    t.dec.prevLevel = if s.portIn.rst then false else s.portIn.level := by
  cases hrst : s.portIn.rst
  · have hen : s.portIn.stepEn = true := by
      by_contra hen
      exact hidle ⟨hrst, fun hen' => absurd hen' hen⟩
    exact (step_case h).1.prevLevel_of_stepping ⟨hrst, hen⟩
  · rw [step_dec_of_rst h hrst]
    rfl

end

section
variable {level : Bool} {e : PortIn} (es : List PortIn)

theorem dropIdle_cons_of_idle (h : e.Idle level) :
    dropIdle level (e :: es) = dropIdle level es := by
  obtain ⟨hrst, hlevel⟩ := h
  cases hen : e.stepEn
  · simp [dropIdle, hrst, hen]
  · simp [dropIdle, hrst, hen, hlevel hen]

theorem dropIdle_cons_of_not_idle (h : ¬e.Idle level) :
    dropIdle level (e :: es) = e :: dropIdle (if e.rst then false else e.level) es := by
  cases hrst : e.rst
  · obtain ⟨hen, hlevel⟩ : e.stepEn = true ∧ e.level ≠ level := by
      simpa [PortIn.Idle, hrst] using h
    simp [dropIdle, hrst, hen, hlevel]
  · simp [dropIdle, hrst]

end

end Sys2Proof.Machine
end

section
/-! Runs less their idle edges (40_step_dispatch.md R105): a step depends on DecoderState, the parameters and the ports
alone, so two runs that agree on these go on agreeing, whatever idle edges one of them has besides. -/

namespace Sys2Proof.Machine

/-- The operation is a function of DecoderState, the parameters and the ports. -/
theorem fetch_congr {s s' : State} (hd : s.dec = s'.dec) (hp : s.params = s'.params)
    (hrst : s.portIn.rst = s'.portIn.rst) (hen : s.portIn.stepEn = s'.portIn.stepEn)
    (hl : s.levelIn = s'.levelIn) (hn : s.nowIn = s'.nowIn) : s'.fetch = s.fetch := by
  have hc : s'.dclass = s.dclass := by
    unfold State.dclass State.duration
    rw [hd, hp, hn]
  rw [fetch_eq, fetch_eq, hc, hd, hp, hrst, hen, hl]

/-- A step's effect on DecoderState and its outputs are a function of DecoderState, the parameters and the ports. -/
theorem step_congr {s s' t : State} (hd : s.dec = s'.dec) (hp : s.params = s'.params)
    (hrst : s.portIn.rst = s'.portIn.rst) (hen : s.portIn.stepEn = s'.portIn.stepEn)
    (hl : s.levelIn = s'.levelIn) (hn : s.nowIn = s'.nowIn) (h : step s = .next t) :
    ∃ t', step s' = .next t' ∧ t'.dec = t.dec ∧ t'.out = t.out := by
  obtain ⟨i, u, hi, hu, rfl⟩ := step_cases h
  obtain ⟨u', hu'⟩ := exec_total i s'
  have ⟨hdec, hout⟩ := exec_congr hd hl hn hu hu'
  exact ⟨u'.takeEdge, step_of_exec ((fetch_congr hd hp hrst hen hl hn).trans hi) hu',
    by simpa using hdec, by simpa using hout⟩

/-- The state with the list of edges to come. -/
def State.facing (s : State) (es : List PortIn) : State := { s with pending := es }

section
variable {s s' t : State} {e : PortIn} {es : List PortIn}

/-- On one and the same edge, two states that agree on DecoderState and the parameters select one operation and sample
one time, and their steps agree again. -/
theorem step_facing_congr (hd : s.dec = s'.dec) (hp : s.params = s'.params) (es' : List PortIn)
    (h : step (s.facing (e :: es)) = .next t) :
    (s'.facing (e :: es')).fetch = (s.facing (e :: es)).fetch ∧
      (s'.facing (e :: es')).nowIn = (s.facing (e :: es)).nowIn ∧
      ∃ t', step (s'.facing (e :: es')) = .next t' ∧ t'.dec = t.dec ∧ t'.out = t.out := by
  have hd' : (s.facing (e :: es)).dec = (s'.facing (e :: es')).dec := hd
  have hp' : (s.facing (e :: es)).params = (s'.facing (e :: es')).params := hp
  have hn : (s.facing (e :: es)).nowIn = (s'.facing (e :: es')).nowIn :=
    congrArg (fun P : Params => e.now % 2 ^ P.wMs) hp
  exact ⟨fetch_congr hd' hp' rfl rfl rfl hn, hn.symm, step_congr hd' hp' rfl rfl rfl hn h⟩

/-- The active operations of a list are that of its first edge, if it is active, and those of the rest. -/
theorem activeOps_cons {i : Instr} (hi : (s.facing (e :: es)).fetch = .ok i)
    (h : step (s.facing (e :: es)) = .next t) :
    activeOps s (e :: es) =
      if isIdle i then activeOps t es
      else (i, (s.facing (e :: es)).nowIn, t.out) :: activeOps t es := by
  unfold State.facing at hi h ⊢
  simp only [activeOps, hi, h]

end

/-- Two runs from one DecoderState, with the idle edges and without, end in one DecoderState and drive the same active
operations. -/
theorem feed_dropIdle (es : List PortIn) {s s' t : State} (hd : s.dec = s'.dec)
    (hp : s.params = s'.params) (h : feed s es = .next t) :
    (∃ u, feed s' (dropIdle s.dec.prevLevel es) = .next u ∧ u.dec = t.dec) ∧
      activeOps s' (dropIdle s.dec.prevLevel es) = activeOps s es := by
  induction es generalizing s s' with
  | nil =>
    cases h
    exact ⟨⟨_, feed_nil s', hd.symm⟩, rfl⟩
  | cons e es ih =>
    obtain ⟨v, hv⟩ := everyStepAnswersANextState (s.facing (e :: es))
    obtain ⟨i, -, hi, -⟩ := step_cases hv
    obtain ⟨hcase, hvp⟩ := step_case hv
    rw [feed_cons hv] at h
    have hactive := isIdle_iff_of_fetch hi
    by_cases hidle : e.Idle s.dec.prevLevel
    · have hvd : v.dec = s.dec := hcase.dec_of_idle hidle
      rw [dropIdle_cons_of_idle es hidle, activeOps_cons hi hv, if_pos (hactive.2 hidle), ← hvd]
      exact ih (hvd.trans hd) (hvp.trans hp) h
    · have hlevel : v.dec.prevLevel = if e.rst then false else e.level :=
        step_prevLevel_of_not_idle hv hidle
      rw [dropIdle_cons_of_not_idle es hidle, ← hlevel]
      obtain ⟨hfetch, hnow, v', hv', hd', hout⟩ :=
        step_facing_congr hd hp (dropIdle v.dec.prevLevel es) hv
      have hvp' : v'.params = s'.params := (step_case hv').2
      obtain ⟨hrun, hops⟩ := ih hd'.symm (hvp.trans (hp.trans hvp'.symm)) h
      rw [feed_cons hv', activeOps_cons hi hv, activeOps_cons (hfetch.trans hi) hv', hnow, hout, hops]
      exact ⟨hrun, rfl⟩

/-- Settles O44: a step sees nothing but what the statement names, and the runs with the idle edges and without agree by
induction on the list. -/
theorem holdsAndNostepsAreInvisible : Obligations.HoldsAndNostepsAreInvisible := by
  refine ⟨fun s t s' hd hp hst hst' hl hn h => ?_, fun s t es h => feed_dropIdle es rfl rfl h⟩
  obtain ⟨hrst, hen⟩ := hst
  obtain ⟨hrst', hen'⟩ := hst'
  exact step_congr hd hp (hrst.trans hrst'.symm) (hen.trans hen'.symm) hl hn h

end Sys2Proof.Machine
end

section
/-! The operation that each kind of edge selects in Searching (30_encoding.md R74, 40_step_dispatch.md R100). -/

namespace Sys2Proof.Machine

section
variable {s : State}

theorem fetch_of_searching (hst : s.Stepping) (hs : s.dec.sync = false) :
    s.fetch = .ok (decodeSearching s.dec.cand s.dec.prevLevel s.levelIn s.dclass) := by
  rw [fetch_of_stepping hst, hs]
  rfl

theorem fetch_of_searching_holding (hs : s.dec.sync = false) (hh : s.Holding) :
    s.fetch = .ok (.sHold s.dec.cand s.levelIn s.dclass) := by
  obtain ⟨hst, hlevel⟩ := hh
  rw [fetch_of_searching hst hs, hlevel]
  cases s.dec.prevLevel <;> rfl

/-- Without a candidate the class does not matter to a rising edge. -/
theorem fetch_of_searching_rising (hs : s.dec.sync = false) (hc : s.dec.cand = false)
    (hr : s.Rising) : s.fetch = .ok (.sRise s.dclass) := by
  obtain ⟨hst, hprev, hlevel⟩ := hr
  rw [fetch_of_searching hst hs, hc, hprev, hlevel]
  rfl

/-- With a candidate the class of the gap decides. -/
theorem fetch_of_searching_rising_cand (hs : s.dec.sync = false) (hc : s.dec.cand = true)
    (hr : s.Rising) :
    s.fetch = .ok (if s.dclass = .gap then .sRiseFound else .sRiseMiss s.dclass) := by
  obtain ⟨hst, hprev, hlevel⟩ := hr
  rw [fetch_of_searching hst hs, hc, hprev, hlevel]
  rfl

/-- At a falling edge the class of the pulse decides, and the old candidate does not. -/
theorem fetch_of_searching_falling (hs : s.dec.sync = false) (hf : s.Falling) :
    s.fetch =
      .ok (if s.dclass = .mark then .sFallArm s.dec.cand else .sFallDrop s.dec.cand s.dclass) := by
  obtain ⟨hst, hprev, hlevel⟩ := hf
  rw [fetch_of_searching hst hs, hprev, hlevel]
  rfl

end

section
variable (s : State)

theorem fetch_eq_sFallArm_iff :
    (∃ cand, s.fetch = .ok (.sFallArm cand)) ↔ s.dec.sync = false ∧ s.Falling ∧ s.dclass = .mark := by
  constructor
  · rintro ⟨cand, h⟩
    obtain ⟨hs, hf⟩ := selects_of_fetch h
    rw [fetch_of_searching_falling hs hf] at h
    split at h
    · next hmark => exact ⟨hs, hf, hmark⟩
    · cases h
  · rintro ⟨hs, hf, hmark⟩
    exact ⟨_, by rw [fetch_of_searching_falling hs hf, if_pos hmark]⟩

theorem fetch_eq_sFallDrop_iff :
    (∃ cand c, s.fetch = .ok (.sFallDrop cand c)) ↔
      s.dec.sync = false ∧ s.Falling ∧ s.dclass ≠ .mark := by
  constructor
  · rintro ⟨cand, c, h⟩
    obtain ⟨hs, hf⟩ := selects_of_fetch h
    rw [fetch_of_searching_falling hs hf] at h
    split at h
    · cases h
    · next hmark => exact ⟨hs, hf, hmark⟩
  · rintro ⟨hs, hf, hmark⟩
    exact ⟨_, _, by rw [fetch_of_searching_falling hs hf, if_neg hmark]⟩

theorem fetch_eq_sRiseMiss_iff :
    (∃ c, s.fetch = .ok (.sRiseMiss c)) ↔
      s.dec.sync = false ∧ s.dec.cand = true ∧ s.Rising ∧ s.dclass ≠ .gap := by
  constructor
  · rintro ⟨c, h⟩
    obtain ⟨hs, hc, hr⟩ := selects_of_fetch h
    rw [fetch_of_searching_rising_cand hs hc hr] at h
    split at h
    · cases h
    · next hgap => exact ⟨hs, hc, hr, hgap⟩
  · rintro ⟨hs, hc, hr, hgap⟩
    exact ⟨_, by rw [fetch_of_searching_rising_cand hs hc hr, if_neg hgap]⟩

end

end Sys2Proof.Machine
end

section
/-! The six operations of the FrameSearcher (41_frame_searcher.md R121 to R126): when each is selected, in terms of the
duration, and its whole next state. -/

namespace Sys2Proof.Machine

/-- The marker window comes first among the clauses of 30_encoding.md R72, so its class needs no constraint on the
parameters. -/
theorem wClass_eq_mark_iff (P : Params) (d : Nat) :
    wClass P d = .mark ↔ P.tMarkLo < d ∧ d < P.tMarkHi := by
  constructor
  · intro h
    have hwindow := inWindow_wClass P d
    rwa [h] at hwindow
  · rintro ⟨hlo, hhi⟩
    unfold wClass
    rw [if_neg hlo.not_ge, if_pos hhi]

theorem wClass_ne_mark_iff (P : Params) (d : Nat) :
    wClass P d ≠ .mark ↔ d ≤ P.tMarkLo ∨ P.tMarkHi ≤ d := by
  rw [Ne, wClass_eq_mark_iff]
  omega

theorem wClass_eq_gap_iff {P : Params} (hP : P.Ordered) (d : Nat) :
    wClass P d = .gap ↔ P.tGapLo < d ∧ d < P.tGapHi := wClass_eq_iff hP d .gap

theorem wClass_ne_gap_iff {P : Params} (hP : P.Ordered) (d : Nat) :
    wClass P d ≠ .gap ↔ d ≤ P.tGapLo ∨ P.tGapHi ≤ d := by
  rw [Ne, wClass_eq_gap_iff hP]
  omega

/-- At a hold the level written is the one that stands there. -/
theorem State.Holding.dec_eq {s : State} (h : s.Holding) :
    { s.dec with prevLevel := s.levelIn } = s.dec := by
  obtain ⟨-, hlevel⟩ := h
  rw [hlevel]

/-- Settles O21, with `State.Holding.dec_eq` for the value that `prevLevel` takes. -/
theorem searchHoldChangesNothing : Obligations.SearchHoldChangesNothing := by
  refine ⟨fun s => ⟨?_, ?_⟩, fun _ _ _ _ => rfl, fun _ => State.Holding.dec_eq⟩
  · rintro ⟨_, _, _, h⟩
    exact selects_of_fetch h
  · rintro ⟨hs, hh⟩
    exact ⟨_, _, _, fetch_of_searching_holding hs hh⟩

/-- Settles O22: neither the selection nor the next state asks for the class. -/
theorem searchRiseRecordsTheEdge : Obligations.SearchRiseRecordsTheEdge := by
  refine ⟨fun s => ⟨?_, ?_⟩, fun _ _ => rfl⟩
  · rintro ⟨_, h⟩
    exact selects_of_fetch h
  · rintro ⟨hs, hc, hr⟩
    exact ⟨_, fetch_of_searching_rising hs hc hr⟩

/-- Settles O23: the class MARK is the marker window, whatever the parameters. -/
theorem markerWidthPulseArmsTheCandidate : Obligations.MarkerWidthPulseArmsTheCandidate := by
  refine ⟨fun s => ?_, fun _ _ => rfl⟩
  have hmark : s.dclass = .mark ↔ _ := wClass_eq_mark_iff s.params s.duration
  rw [fetch_eq_sFallArm_iff, hmark]

/-- Settles O24: the classes other than MARK are the durations outside the marker window, whatever the parameters. -/
theorem otherPulsesDropTheCandidate : Obligations.OtherPulsesDropTheCandidate := by
  refine ⟨fun s => ?_, fun _ _ _ => rfl⟩
  have hmark : s.dclass ≠ .mark ↔ _ := wClass_ne_mark_iff s.params s.duration
  rw [fetch_eq_sFallDrop_iff, hmark]

/-- Settles O25: the class GAP is the frame-start window, and the bulk clear leaves the store that reads 0. -/
theorem frameFoundEntersDecodingWithClearCells :
    Obligations.FrameFoundEntersDecodingWithClearCells := by
  refine ⟨fun s hP => ?_, fun s => ⟨_, rfl, rfl, memRead_zero⟩⟩
  have hgap : s.dclass = .gap ↔ _ := wClass_eq_gap_iff hP s.duration
  rw [fetch_eq_sRiseFound_iff, State.FrameFinding, hgap]
  constructor
  · rintro ⟨hr, hs, hc, hwindow⟩
    exact ⟨hs, hc, hr, hwindow⟩
  · rintro ⟨hs, hc, hr, hwindow⟩
    exact ⟨hr, hs, hc, hwindow⟩

/-- Settles O26: the classes other than GAP are the durations outside the frame-start window. -/
theorem otherGapsDiscardTheCandidate : Obligations.OtherGapsDiscardTheCandidate := by
  refine ⟨fun s hP => ?_, fun _ _ => rfl⟩
  have hgap : s.dclass ≠ .gap ↔ _ := wClass_ne_gap_iff hP s.duration
  rw [fetch_eq_sRiseMiss_iff, hgap]

end Sys2Proof.Machine
end

section
/-! A falling edge in Decoding runs DecodeFall at the effective class of its duration, and its three outcomes
(42_slot_classifier.md R141, R148, 43_frame_accumulator.md R162 to R164). -/

namespace Sys2Proof.Machine

/-- The D.FALL operation of an effective class is DecodeFall at that class. -/
theorem exec_decodeSlot (lower cand : Bool) (c : DClass) (s : State) :
    exec (decodeSlot lower cand c) s = .next (decodeFall (eff lower c) s) := by
  unfold decodeSlot
  cases eff lower c <;> rfl

section
variable {s : State}

theorem fetch_of_decoding (hst : s.Stepping) (hs : s.dec.sync = true) :
    s.fetch = .ok
      (decodeDecoding s.params.decMarkLower s.dec.cand s.dec.prevLevel s.levelIn s.dclass) := by
  rw [fetch_of_stepping hst, hs]
  rfl

theorem fetch_of_decoding_holding (hs : s.dec.sync = true) (hh : s.Holding) :
    s.fetch = .ok (.dHold s.dec.cand s.levelIn s.dclass) := by
  obtain ⟨hst, hlevel⟩ := hh
  rw [fetch_of_decoding hst hs, hlevel]
  cases s.dec.prevLevel <;> rfl

theorem fetch_of_decoding_rising (hs : s.dec.sync = true) (hr : s.Rising) :
    s.fetch = .ok (.dRise s.dec.cand s.dclass) := by
  obtain ⟨hst, hprev, hlevel⟩ := hr
  rw [fetch_of_decoding hst hs, hprev, hlevel]
  rfl

theorem fetch_of_decoding_falling (hs : s.dec.sync = true) (hf : s.Falling) :
    s.fetch = .ok (decodeSlot s.params.decMarkLower s.dec.cand s.dclass) := by
  obtain ⟨hst, hprev, hlevel⟩ := hf
  rw [fetch_of_decoding hst hs, hprev, hlevel]
  rfl

theorem step_of_decoding_falling (hs : s.dec.sync = true) (hf : s.Falling) :
    step s = .next (decodeFall (eff s.params.decMarkLower s.dclass) s).takeEdge :=
  step_of_exec (fetch_of_decoding_falling hs hf) (exec_decodeSlot ..)

theorem decodeFall_of_lt {cc : EffClass} (hne : ¬(s.dec.nextSlot = 50 ∧ cc = .mark))
    (hn : s.dec.nextSlot < 60) :
    decodeFall cc s =
      s.endStep
        { accumulate s.dec.nextSlot (classify cc s.dec.nextSlot) s.dec with
          slot := BitVec.ofNat 6 s.dec.nextSlot }
        ⟨classify cc s.dec.nextSlot, false, false, false⟩ := by
  rcases decodeFall_cases cc s with ⟨h50, hcc, -⟩ | ⟨h60, -⟩ | ⟨-, -, h⟩
  · exact absurd ⟨h50, hcc⟩ hne
  · omega
  · exact h

theorem decodeFall_mark_of_eq (hn : s.dec.nextSlot = 50) :
    decodeFall .mark s =
      s.endStep { resync s.dec with cur := assemble s.dec.cells } ⟨.markP5, false, true, false⟩ := by
  rcases decodeFall_cases .mark s with ⟨-, -, h⟩ | ⟨h60, -⟩ | ⟨hne, -, -⟩
  · exact h
  · omega
  · exact absurd ⟨hn, rfl⟩ hne

theorem decodeFall_of_le (cc : EffClass) (hn : 60 ≤ s.dec.nextSlot) :
    decodeFall cc s =
      s.endStep (resync s.dec) ⟨classify cc s.dec.nextSlot, false, false, true⟩ := by
  rcases decodeFall_cases cc s with ⟨h50, -, -⟩ | ⟨-, h⟩ | ⟨-, hlt, -⟩
  · omega
  · exact h
  · omega

end

/-- DecodeFall does to the cells what Accumulate does: no cell is mapped where a frame ends. -/
theorem decodeFall_cells (cc : EffClass) (s : State) :
    (decodeFall cc s).dec.cells =
      (accumulate s.dec.nextSlot (classify cc s.dec.nextSlot) s.dec).cells := by
  rcases decodeFall_cases cc s with ⟨hn, -, h⟩ | ⟨hn, h⟩ | ⟨-, -, h⟩ <;> rw [h]
  · rw [accumulate_of_le (by omega)]
    rfl
  · rw [accumulate_of_le (by omega)]
    rfl
  · rfl

end Sys2Proof.Machine
end

section
/-! The cells of the positions still to come (42_slot_classifier.md R146, 43_frame_accumulator.md R165): they are cleared
at FrameFound, each falling edge writes at most the cell of the position it consumes, and so they stay 0. -/

namespace Sys2Proof.Machine

theorem memRead_memWrite_of_ne {a b : Nat} (h : b ≠ a) (st : BitStore) (v : Bool) :
    memRead (memWrite st a v) b = memRead st b := by
  obtain ⟨-, -, hother⟩ := memWriteWritesItsCellAndNoOther st a v
  exact hother b h

/-- Writing the bit that stands there changes no cell. -/
theorem memWrite_of_memRead {st : BitStore} {a : Nat} {v : Bool} (h : memRead st a = some v) :
    memWrite st a v = st := by
  obtain ⟨-, hmapped, -⟩ := memWriteWritesItsCellAndNoOther st a v
  refine eq_of_memRead_eq fun b => ?_
  by_cases hb : b = a
  · have hmap : mapSlot a ≠ none := by
      rw [← Option.isSome_iff_ne_none, ← memRead_isSome st, h]
      rfl
    rw [hb, hmapped hmap, h]
  · exact memRead_memWrite_of_ne hb st v

/-- Writing 0 changes nothing where no 1 stands, at a mapped address or at an unmapped one. -/
theorem memWrite_false_of_ne {st : BitStore} {a : Nat} (h : memRead st a ≠ some true) :
    memWrite st a false = st := by
  cases hread : memRead st a with
  | none =>
    obtain ⟨hunmapped, -, -⟩ := memWriteWritesItsCellAndNoOther st a false
    refine hunmapped (Option.isNone_iff_eq_none.1 ?_)
    rw [← Option.not_isSome, ← memRead_isSome st, hread]
    rfl
  | some v =>
    cases v
    · exact memWrite_of_memRead hread
    · exact absurd hread h

/-- Accumulate writes the cell of its position and no other. -/
theorem memRead_accumulate_of_ne {a n : Nat} (h : a ≠ n) (res : SlotResult) (d : DecoderState) :
    memRead (accumulate n res d).cells a = memRead d.cells a := by
  rw [accumulate_eq]
  split_ifs
  · exact memRead_memWrite_of_ne h _ _
  · exact memRead_memWrite_of_ne h _ _
  · rfl

/-- Only a One slot changes a cell that is not 1. -/
theorem accumulate_of_ne_one {n : Nat} {res : SlotResult} {d : DecoderState} (hres : res ≠ .one)
    (h : memRead d.cells n ≠ some true) : accumulate n res d = d := by
  rw [accumulate_eq, if_neg hres, memWrite_false_of_ne h]
  exact ite_self d

/-- `FreshCells`, of DecoderState alone. -/
def DecoderState.Fresh (d : DecoderState) : Prop :=
  d.sync = true → ∀ a, d.slot.toNat < a → memRead d.cells a ≠ some true

theorem freshCells_iff (s : State) : FreshCells s ↔ s.dec.Fresh := Iff.rfl

theorem DecoderState.fresh_of_searching {d : DecoderState} (h : d.sync = false) : d.Fresh := by
  intro hs
  simp [h] at hs

/-- S.RISE.FOUND clears the cells, and a consumed slot writes none above the new position; every other step ends in
Searching or leaves position and cells as they are. -/
theorem StepCase.keeps_fresh {s : State} {d : DecoderState} {o : Outputs} (h : StepCase s d o)
    (hfresh : s.dec.Fresh) : d.Fresh := by
  cases h with
  | nostep | hold | dRise => exact hfresh
  | sRise _ hs | sFallArm _ hs | sFallDrop _ hs | sRiseMiss _ hs =>
    exact DecoderState.fresh_of_searching hs
  | reset | complete | overflow => exact DecoderState.fresh_of_searching rfl
  | sRiseFound => exact fun _ a _ => memRead_zero_ne a
  | slot cc _ hs _ _ hn =>
    intro _ a ha
    have hna : s.dec.nextSlot < a := by simpa only [toNat_slot_of_lt hn] using ha
    have hold : memRead s.dec.cells a ≠ some true := hfresh hs a (Nat.lt_of_succ_lt hna)
    simpa only [memRead_accumulate_of_ne hna.ne'] using hold

theorem FreshCells.step {s t : State} (hfresh : FreshCells s) (h : step s = .next t) :
    FreshCells t := by
  obtain ⟨hcase, -⟩ := step_case h
  exact (freshCells_iff t).2 (hcase.keeps_fresh ((freshCells_iff s).1 hfresh))

theorem freshCells_of_reachable {s : State} (h : Reachable s) : FreshCells s := by
  induction h with
  | reset => exact freshCells_of_searching rfl
  | step _ hstep ih => exact ih.step hstep

/-- The cell of the next position is one of a position still to come. -/
theorem FreshCells.memRead_next_ne {s : State} (h : FreshCells s) (hs : s.dec.sync = true) :
    memRead s.dec.cells s.dec.nextSlot ≠ some true :=
  h hs _ (Nat.lt_succ_self _)

/-- A slot that is not a One changes no cell, since the cell of its position is still 0. -/
theorem FreshCells.decodeFall_cells_eq {s : State} (h : FreshCells s) (hs : s.dec.sync = true)
    {cc : EffClass} (hres : classify cc s.dec.nextSlot ≠ .one) :
    (decodeFall cc s).dec.cells = s.dec.cells := by
  rw [decodeFall_cells, accumulate_of_ne_one hres (h.memRead_next_ne hs)]

/-- Settles O40: the cases of the step keep the cells to come at 0, so a Zero slot writes the 0 that already stands there,
and an Indeterminate one writes nothing. -/
theorem cellsStillToComeStayZero : Obligations.CellsStillToComeStayZero := by
  refine ⟨fun s t _ hfresh h => hfresh.step h, fun s t hfresh hs hf heff h => ?_⟩
  rw [step_of_decoding_falling hs hf] at h
  cases h
  have hres : classify (eff s.params.decMarkLower s.dclass) s.dec.nextSlot ≠ .one := by
    rcases heff with heff | heff <;> rw [heff] <;> simp [classify]
  have hcells := hfresh.decodeFall_cells_eq hs hres
  rw [takeEdge_dec, hcells]
  exact ⟨hfresh.memRead_next_ne hs, rfl⟩

end Sys2Proof.Machine
end

section
/-! The effective class (42_slot_classifier.md R141): which D.FALL operation it selects, which durations have it, and the
result it gives a slot. -/

namespace Sys2Proof

/-- The effective class that each D.FALL operation stands for. -/
def Instr.slotClass : Instr → Option EffClass
  | .dFallMark _ _ => some .mark
  | .dFallOne _ => some .one
  | .dFallZero _ => some .zero
  | .dFallInd _ _ => some .outside
  | _ => none

theorem slotClass_decodeSlot (lower cand : Bool) (c : DClass) :
    (decodeSlot lower cand c).slotClass = some (eff lower c) := by
  unfold decodeSlot
  cases eff lower c <;> rfl

section
variable (lower : Bool) (c : DClass)

theorem eff_eq_mark_iff : eff lower c = .mark ↔ c = .mark ∨ (c = .short ∧ lower = false) := by
  cases c
  case short => cases lower <;> simp [eff]
  all_goals simp [eff]

theorem eff_eq_one_iff : eff lower c = .one ↔ c = .one := by
  cases c
  case short => cases lower <;> simp [eff]
  all_goals simp [eff]

theorem eff_eq_zero_iff : eff lower c = .zero ↔ c = .zero := by
  cases c
  case short => cases lower <;> simp [eff]
  all_goals simp [eff]

theorem eff_eq_outside_iff :
    eff lower c = .outside ↔ (c = .short ∧ lower = true) ∨ c = .outside ∨ c = .gap := by
  cases c
  case short => cases lower <;> simp [eff]
  all_goals simp [eff]

end

end Sys2Proof

namespace Sys2Proof.Machine

/-- A D.FALL operation is selected at a falling edge in Decoding whose duration has its effective class. -/
theorem falling_of_fetch_slotClass {s : State} {i : Instr} {cc : EffClass}
    (hi : i.slotClass = some cc) (h : s.fetch = .ok i) :
    s.dec.sync = true ∧ s.Falling ∧ eff s.params.decMarkLower s.dclass = cc := by
  have hslot : s.dec.sync = true ∧ s.Falling := by
    cases i with
    | dFallMark | dFallOne | dFallZero | dFallInd => exact selects_of_fetch h
    | _ => cases hi
  obtain ⟨hs, hf⟩ := hslot
  rw [fetch_of_decoding_falling hs hf] at h
  cases h
  exact ⟨hs, hf, Option.some.inj ((slotClass_decodeSlot ..).symm.trans hi)⟩

section
variable (s : State)

theorem fetch_eq_dFallMark_iff :
    (∃ cand c, s.fetch = .ok (.dFallMark cand c)) ↔
      s.dec.sync = true ∧ s.Falling ∧ eff s.params.decMarkLower s.dclass = .mark :=
  ⟨fun ⟨_, _, h⟩ => falling_of_fetch_slotClass rfl h, fun ⟨hs, hf, heff⟩ =>
    ⟨_, _, by rw [fetch_of_decoding_falling hs hf, decodeSlot, heff]⟩⟩

theorem fetch_eq_dFallOne_iff :
    (∃ cand, s.fetch = .ok (.dFallOne cand)) ↔
      s.dec.sync = true ∧ s.Falling ∧ eff s.params.decMarkLower s.dclass = .one :=
  ⟨fun ⟨_, h⟩ => falling_of_fetch_slotClass rfl h, fun ⟨hs, hf, heff⟩ =>
    ⟨_, by rw [fetch_of_decoding_falling hs hf, decodeSlot, heff]⟩⟩

theorem fetch_eq_dFallZero_iff :
    (∃ cand, s.fetch = .ok (.dFallZero cand)) ↔
      s.dec.sync = true ∧ s.Falling ∧ eff s.params.decMarkLower s.dclass = .zero :=
  ⟨fun ⟨_, h⟩ => falling_of_fetch_slotClass rfl h, fun ⟨hs, hf, heff⟩ =>
    ⟨_, by rw [fetch_of_decoding_falling hs hf, decodeSlot, heff]⟩⟩

theorem fetch_eq_dFallInd_iff :
    (∃ cand c, s.fetch = .ok (.dFallInd cand c)) ↔
      s.dec.sync = true ∧ s.Falling ∧ eff s.params.decMarkLower s.dclass = .outside :=
  ⟨fun ⟨_, _, h⟩ => falling_of_fetch_slotClass rfl h, fun ⟨hs, hf, heff⟩ =>
    ⟨_, _, by rw [fetch_of_decoding_falling hs hf, decodeSlot, heff]⟩⟩

end

/-- The clause of SHORT is the first of 30_encoding.md R72, so its class needs no constraint on the parameters. -/
theorem wClass_eq_short_iff (P : Params) (d : Nat) : wClass P d = .short ↔ d ≤ P.tMarkLo := by
  constructor
  · intro h
    have hwindow := inWindow_wClass P d
    rwa [h] at hwindow
  · intro h
    unfold wClass
    rw [if_pos h]

theorem eff_wClass_eq_mark_iff (P : Params) (lower : Bool) (d : Nat) :
    eff lower (wClass P d) = .mark ↔
      (P.tMarkLo < d ∧ d < P.tMarkHi) ∨ (d ≤ P.tMarkLo ∧ lower = false) := by
  rw [eff_eq_mark_iff, wClass_eq_mark_iff, wClass_eq_short_iff]

section
variable {P : Params} (hP : P.Ordered) (lower : Bool) (d : Nat)
include hP

theorem eff_wClass_eq_one_iff :
    eff lower (wClass P d) = .one ↔ P.tOneLo < d ∧ d < P.tOneHi :=
  (eff_eq_one_iff ..).trans (wClass_eq_iff hP d .one)

theorem eff_wClass_eq_zero_iff :
    eff lower (wClass P d) = .zero ↔ P.tZeroLo < d ∧ d < P.tZeroHi :=
  (eff_eq_zero_iff ..).trans (wClass_eq_iff hP d .zero)

/-- The frame-start window is no slot window, so above the zero-bit window all durations are Indeterminate. -/
theorem eff_wClass_eq_outside_iff :
    eff lower (wClass P d) = .outside ↔
      (d ≤ P.tMarkLo ∧ lower = true) ∨ (P.tMarkHi ≤ d ∧ d ≤ P.tOneLo) ∨
        (P.tOneHi ≤ d ∧ d ≤ P.tZeroLo) ∨ P.tZeroHi ≤ d := by
  have habove : wClass P d = .outside ∨ wClass P d = .gap ↔
      (P.tMarkHi ≤ d ∧ d ≤ P.tOneLo) ∨ (P.tOneHi ≤ d ∧ d ≤ P.tZeroLo) ∨ P.tZeroHi ≤ d := by
    rw [wClass_eq_iff hP, wClass_eq_iff hP]
    simp only [InWindow]
    omega
  rw [eff_eq_outside_iff, wClass_eq_short_iff, habove]

end

/-- Away from position 50 a marker-width slot is P1 to P4 or Indeterminate (30_encoding.md R80). -/
theorem classify_mark_of_ne {n : Nat} (h : n ≠ 50) :
    classify .mark n =
      if n = 10 then .markP1 else if n = 20 then .markP2 else if n = 30 then .markP3
      else if n = 40 then .markP4 else .indet := by
  unfold classify markerAt
  rw [if_neg h]
  split_ifs <;> rfl

theorem classify_mark_eq_indet_iff (n : Nat) :
    classify .mark n = .indet ↔ n ∉ [10, 20, 30, 40, 50] := by
  unfold classify markerAt
  split_ifs <;> simp [*]

/-- The marker positions end at 50, below the overflow position. -/
theorem classify_mark_of_le {n : Nat} (h : 60 ≤ n) : classify .mark n = .indet := by
  rw [classify_mark_eq_indet_iff]
  simp only [List.mem_cons, List.not_mem_nil, or_false]
  omega

/-- A marker-width slot writes no cell. -/
theorem accumulate_classify_mark (n : Nat) (d : DecoderState) :
    accumulate n (classify .mark n) d = d := by
  unfold classify markerAt
  split_ifs <;> rfl

end Sys2Proof.Machine
end

section
/-! The six operations of the SlotClassifier (42_slot_classifier.md R141 to R147): when each is selected, in terms of the
duration, and its whole next state. -/

namespace Sys2Proof.Machine

/-- Settles O27, with `State.Holding.dec_eq` for the value that `prevLevel` takes. -/
theorem decodeHoldChangesNothing : Obligations.DecodeHoldChangesNothing := by
  refine ⟨fun s => ⟨?_, ?_⟩, fun _ _ _ _ => rfl, fun _ => State.Holding.dec_eq⟩
  · rintro ⟨_, _, _, h⟩
    exact selects_of_fetch h
  · rintro ⟨hs, hh⟩
    exact ⟨_, _, _, fetch_of_decoding_holding hs hh⟩

/-- Settles O28: neither the selection nor the next state asks for the class. -/
theorem decodeRiseRecordsTheEdge : Obligations.DecodeRiseRecordsTheEdge := by
  refine ⟨fun s => ⟨?_, ?_⟩, fun _ _ _ => rfl⟩
  · rintro ⟨_, _, h⟩
    exact selects_of_fetch h
  · rintro ⟨hs, hr⟩
    exact ⟨_, _, fetch_of_decoding_rising hs hr⟩

/-- Settles O29: the effective class MARK is the marker window, and SHORT as well without `DEC_MARK_LOWER`; the three
outcomes of DecodeFall are the three ranges of the position. -/
theorem markerSlotIsConsumedOrEndsTheFrame : Obligations.MarkerSlotIsConsumedOrEndsTheFrame := by
  refine ⟨fun s => ?_, fun cand c s => ⟨fun hne hlt => ?_, fun h50 => ?_, fun h60 => ?_⟩,
    fun s hreach hs => (freshCells_of_reachable hreach).memRead_next_ne hs⟩
  · have heff : eff s.params.decMarkLower s.dclass = .mark ↔ _ :=
      eff_wClass_eq_mark_iff s.params s.params.decMarkLower s.duration
    rw [fetch_eq_dFallMark_iff, heff]
  · have h := decodeFall_of_lt (s := s) (cc := .mark) (fun h => hne h.1) hlt
    rw [accumulate_classify_mark, classify_mark_of_ne (n := s.dec.nextSlot) hne] at h
    exact congrArg Host.Outcome.next h
  · exact congrArg Host.Outcome.next (decodeFall_mark_of_eq h50)
  · have h := decodeFall_of_le .mark h60
    rw [classify_mark_of_le (n := s.dec.nextSlot) h60] at h
    exact congrArg Host.Outcome.next h

/-- Settles O30: the effective class ONE is the one-bit window, and a One slot ends a frame by FrameOverflow only. -/
theorem oneSlotSetsItsCell : Obligations.OneSlotSetsItsCell := by
  refine ⟨fun s hP => ?_, fun cand s => ⟨fun hlt => ?_, fun h60 => ?_⟩⟩
  · have heff : eff s.params.decMarkLower s.dclass = .one ↔ _ :=
      eff_wClass_eq_one_iff hP s.params.decMarkLower s.duration
    rw [fetch_eq_dFallOne_iff, heff]
  · exact congrArg Host.Outcome.next (decodeFall_of_lt (cc := .one) (by simp) hlt)
  · exact congrArg Host.Outcome.next (decodeFall_of_le .one h60)

/-- Settles O31: the effective class ZERO is the zero-bit window, a Zero slot ends a frame by FrameOverflow only, and in a
reachable state the cell it writes is not 1. -/
theorem zeroSlotClearsItsCell : Obligations.ZeroSlotClearsItsCell := by
  refine ⟨fun s hP => ?_, fun cand s => ⟨fun hlt => ?_, fun h60 => ?_⟩, fun s hreach hs =>
    memWrite_false_of_ne ((freshCells_of_reachable hreach).memRead_next_ne hs)⟩
  · have heff : eff s.params.decMarkLower s.dclass = .zero ↔ _ :=
      eff_wClass_eq_zero_iff hP s.params.decMarkLower s.duration
    rw [fetch_eq_dFallZero_iff, heff]
  · exact congrArg Host.Outcome.next (decodeFall_of_lt (cc := .zero) (by simp) hlt)
  · exact congrArg Host.Outcome.next (decodeFall_of_le .zero h60)

/-- Settles O32: the effective class NONE is the durations in no slot window, and an Indeterminate slot ends a frame by
FrameOverflow only. -/
theorem indeterminateSlotIsConsumedWithoutAWrite :
    Obligations.IndeterminateSlotIsConsumedWithoutAWrite := by
  refine ⟨fun s hP => ?_, fun cand c s => ⟨fun hlt => ?_, fun h60 => ?_⟩,
    fun s hreach hs => (freshCells_of_reachable hreach).memRead_next_ne hs⟩
  · have heff : eff s.params.decMarkLower s.dclass = .outside ↔ _ :=
      eff_wClass_eq_outside_iff hP s.params.decMarkLower s.duration
    rw [fetch_eq_dFallInd_iff, heff]
  · exact congrArg Host.Outcome.next (decodeFall_of_lt (cc := .outside) (by simp) hlt)
  · exact congrArg Host.Outcome.next (decodeFall_of_le .outside h60)

/-- Settles O33: the classes one by one, the marker positions one by one, and the operation that `decodeSlot` names for
each effective class. -/
theorem effectiveClassDecidesTheSlotResult : Obligations.EffectiveClassDecidesTheSlotResult := by
  refine ⟨fun lower => ⟨rfl, rfl, rfl, rfl, rfl, rfl⟩,
    fun n => ⟨rfl, rfl, rfl, classify_mark_eq_indet_iff n, fun hn => ?_⟩,
    fun s hs hf => ⟨_, fetch_of_decoding_falling hs hf, ?_⟩⟩
  · fin_cases hn <;> rfl
  · unfold decodeSlot
    cases eff s.params.decMarkLower s.dclass <;> rfl

end Sys2Proof.Machine
end

section
/-! The two frame ends (43_frame_accumulator.md R163, R164, 60_exceptions.md R206) and the slot accounting between them
(R166, R202), read off the cases of `StepCase`. -/

namespace Sys2Proof.Machine

section
variable {s : State} {d : DecoderState} {o : Outputs}

/-- FrameComplete is the only case that drives `complete_o` (R163). -/
theorem StepCase.dec_of_complete (h : StepCase s d o) (hc : o.complete = true) :
    d = { resync s.dec with cur := assemble s.dec.cells, prevLevel := false } := by
  cases h with
  | complete => rfl
  | _ => cases hc

/-- FrameOverflow is the only case that drives `overflow_o` (R164). -/
theorem StepCase.dec_of_overflow (h : StepCase s d o) (hov : o.overflow = true) :
    d = { resync s.dec with prevLevel := false } := by
  cases h with
  | overflow => rfl
  | _ => cases hov

/-- A step that stays in Decoding moves the position on by 1 at a falling edge and leaves it at any other: the only
falling edge that does not leave Decoding is one that consumes a slot. -/
theorem StepCase.slot_of_decoding (h : StepCase s d o) (hs : s.dec.sync = true)
    (hd : d.sync = true) :
    d.slot.toNat =
      s.dec.slot.toNat + if s.dec.prevLevel = true ∧ d.prevLevel = false then 1 else 0 := by
  cases h with
  | reset | complete | overflow => cases hd
  | nostep | hold | dRise => simp
  | sRise _ hs' | sFallArm _ hs' | sFallDrop _ hs' | sRiseFound _ hs' | sRiseMiss _ hs' =>
    simp [hs] at hs'
  | slot _ hf _ _ _ hn =>
    obtain ⟨-, hhigh, -⟩ := hf
    rw [if_pos ⟨hhigh, rfl⟩]
    exact toNat_slot_of_lt hn

end

/-- Settles O36: the DecoderState that each frame end leaves, and no step is both. -/
theorem bothFrameEndsForceSearching : Obligations.BothFrameEndsForceSearching := by
  intro s t h hend
  obtain ⟨hcase, -⟩ := step_case h
  obtain ⟨-, -, -, -, -, hboth, -⟩ := eventStrobesOfEveryStep s t h
  rcases hend with hc | hov
  · rw [hcase.dec_of_complete hc]
    exact ⟨rfl, rfl, rfl, rfl, rfl, rfl, rfl, rfl, rfl, fun _ => rfl,
      fun hov => absurd ⟨hc, hov⟩ hboth⟩
  · rw [hcase.dec_of_overflow hov]
    exact ⟨rfl, rfl, rfl, rfl, rfl, rfl, rfl, rfl, rfl, fun hc => absurd ⟨hc, hov⟩ hboth,
      fun _ => rfl⟩

section
variable {f : Nat → State} {m : Nat}

/-- The invariants hold all along a run that starts with them. -/
theorem inv_of_run (hinv : Inv (f 0)) (hrun : ∀ j, j < m → step (f j) = .next (f (j + 1))) :
    Inv (f m) := by
  induction m with
  | zero => exact hinv
  | succ m ih =>
    exact everyStepKeepsTheInvariant _ _ (ih fun j hj => hrun j (by omega)) (hrun m (by omega))

/-- In Decoding the position counts the falling edges, one step at a time. -/
theorem slot_eq_add_fallsBefore (hrun : ∀ j, j < m → step (f j) = .next (f (j + 1)))
    (hsync : ∀ j, j ≤ m → (f j).dec.sync = true) :
    (f m).dec.slot.toNat = (f 0).dec.slot.toNat + fallsBefore f m := by
  induction m with
  | zero => rfl
  | succ m ih =>
    obtain ⟨hcase, -⟩ := step_case (hrun m (by omega))
    rw [hcase.slot_of_decoding (hsync m (by omega)) (hsync (m + 1) le_rfl),
      ih (fun j hj => hrun j (by omega)) (fun j hj => hsync j (by omega)), fallsBefore,
      Nat.add_assoc]

end

/-- Settles O46: the position counts the falling edges, and the invariant keeps it between 1 at the start and 59 at the
end. -/
theorem slotsCountFallingEdges : Obligations.SlotsCountFallingEdges := by
  intro f m hinv hrun hsync
  have hcount := slot_eq_add_fallsBefore hrun hsync
  obtain ⟨hstart, -⟩ := hinv.decoding (hsync 0 (Nat.zero_le m))
  have hend := (inv_of_run hinv hrun).slotLe
  exact ⟨hcount, by omega⟩

end Sys2Proof.Machine
end

section
/-! Assemble (44_time_assembler.md R180, R182): each member of the TimePoint is the whole sum of its field, which is the
sum over the rows of the position table for that field. -/

namespace Sys2Proof.Machine

section
variable (st : BitStore)

/-! The sums fit their registers (R182), so that no member is truncated. -/

@[simp] theorem assemble_minute_toNat : (assemble st).minute.toNat = minuteSum st.bMin :=
  Nat.mod_eq_of_lt ((minuteSum_le st.bMin).trans_lt (by decide))

@[simp] theorem assemble_hour_toNat : (assemble st).hour.toNat = hourSum st.bHr :=
  Nat.mod_eq_of_lt ((hourSum_le st.bHr).trans_lt (by decide))

@[simp] theorem assemble_dayOfYear_toNat : (assemble st).dayOfYear.toNat = daySum st.bDay :=
  Nat.mod_eq_of_lt ((daySum_le st.bDay).trans_lt (by decide))

@[simp] theorem assemble_year_toNat : (assemble st).year.toNat = yearSum st.bYr :=
  Nat.mod_eq_of_lt ((yearSum_le st.bYr).trans_lt (by decide))

end

/-- The rows of the position table for one field. -/
def fieldRows (f : Field) : List MapRow := positionTable.filter fun r => r.field == f

/-- The sum over the rows of a field that R180 writes: the weight times the bit that MemRead gives. -/
def fieldTotal (st : BitStore) (f : Field) : Nat :=
  ((fieldRows f).map fun r => r.weight * ((memRead st r.slot).getD false).toNat).sum

/-- The sum of the products of weights and bits, in order. -/
def weightedSum (ws : List Nat) (bits : List Bool) : Nat :=
  (List.zipWith (fun w b => w * b.toNat) ws bits).sum

/-- A field whose slots read as the given bits, in order, has their weighted sum as its total. -/
theorem fieldTotal_eq_weightedSum {st : BitStore} {f : Field} {bits : List Bool}
    (h : ((fieldRows f).map MapRow.slot).map (memRead st) = bits.map some) :
    fieldTotal st f = weightedSum ((fieldRows f).map MapRow.weight) bits := by
  have hbits : bits = (fieldRows f).map fun r => (memRead st r.slot).getD false :=
    calc bits = (bits.map some).map (Option.getD · false) := by simp
      _ = (fieldRows f).map fun r => (memRead st r.slot).getD false := by
        rw [← h]; simp
  rw [hbits, weightedSum, List.zipWith_map, List.zipWith_self]
  rfl

/-- The list of a vector's elements, by index. -/
theorem toList_eq_ofFn {α : Type} {n : Nat} (v : Vector α n) :
    v.toList = List.ofFn fun i : Fin n => v[i] :=
  (congrArg Vector.toList Vector.ofFn_getElem.symm).trans Vector.toList_ofFn

theorem minuteSum_eq (v : Vector Bool 7) :
    minuteSum v = weightedSum [40, 20, 10, 8, 4, 2, 1] v.toList := by
  simp [minuteSum, weightedSum, toList_eq_ofFn, add_assoc]

theorem hourSum_eq (v : Vector Bool 6) : hourSum v = weightedSum [20, 10, 8, 4, 2, 1] v.toList := by
  simp [hourSum, weightedSum, toList_eq_ofFn, add_assoc]

theorem daySum_eq (v : Vector Bool 10) :
    daySum v = weightedSum [200, 100, 80, 40, 20, 10, 8, 4, 2, 1] v.toList := by
  simp [daySum, weightedSum, toList_eq_ofFn, add_assoc]

theorem yearSum_eq (v : Vector Bool 8) :
    yearSum v = weightedSum [80, 40, 20, 10, 8, 4, 2, 1] v.toList := by
  simp [yearSum, weightedSum, toList_eq_ofFn, add_assoc]

theorem fieldTotal_minute (st : BitStore) : fieldTotal st .bMin = minuteSum st.bMin :=
  (fieldTotal_eq_weightedSum (map_memRead_minute st)).trans (minuteSum_eq st.bMin).symm

theorem fieldTotal_hour (st : BitStore) : fieldTotal st .bHr = hourSum st.bHr :=
  (fieldTotal_eq_weightedSum (map_memRead_hour st)).trans (hourSum_eq st.bHr).symm

theorem fieldTotal_day (st : BitStore) : fieldTotal st .bDay = daySum st.bDay :=
  (fieldTotal_eq_weightedSum (map_memRead_day st)).trans (daySum_eq st.bDay).symm

theorem fieldTotal_year (st : BitStore) : fieldTotal st .bYr = yearSum st.bYr :=
  (fieldTotal_eq_weightedSum (map_memRead_year st)).trans (yearSum_eq st.bYr).symm

/-- Settles O16: a member is its field's whole sum, which is the sum over the field's rows. -/
theorem assembleIsTheSumOverThePositionTable :
    Obligations.AssembleIsTheSumOverThePositionTable := fun st =>
  ⟨(assemble_minute_toNat st).trans (fieldTotal_minute st).symm,
    (assemble_hour_toNat st).trans (fieldTotal_hour st).symm,
    (assemble_dayOfYear_toNat st).trans (fieldTotal_day st).symm,
    (assemble_year_toNat st).trans (fieldTotal_year st).symm⟩

/-- The store with all 31 cells 1. -/
def BitStore.ones : BitStore where
  bMin := Vector.replicate 7 true
  bHr := Vector.replicate 6 true
  bDay := Vector.replicate 10 true
  bYr := Vector.replicate 8 true

theorem assemble_ones : assemble BitStore.ones = ⟨165, 465, 45, 85⟩ := by decide

theorem assemble_zero : assemble BitStore.zero = TimePoint.zero := by decide

/-- Settles O17: the weights bound the members, and the store of ones reaches all four bounds. -/
theorem assembledMembersReachTheirMaxima : Obligations.AssembledMembersReachTheirMaxima := by
  refine ⟨fun st => ?_, ⟨BitStore.ones, assemble_ones⟩, assemble_zero⟩
  obtain ⟨hminute, hhour, hday, hyear⟩ := assemble_inRange st
  exact ⟨hminute, hhour, hday, hyear⟩

end Sys2Proof.Machine
end

section
/-! The stored edge time in plain search with the pin low (60_exceptions.md R206, 70_reset_and_hazards.md R232): it
decides the class alone, and none of the four operations selected there looks at the class. -/

namespace Sys2Proof.Machine

/-- Searching without a candidate and with the pin last seen low. -/
structure DecoderState.PlainSearch (d : DecoderState) : Prop where
  searching : d.sync = false
  noCand : d.cand = false
  pinLow : d.prevLevel = false

/-- The state with another time of the latest rising edge. -/
def State.withLastEdge (s : State) (L : Nat) : State :=
  { s with dec := { s.dec with lastEdge := L } }

/-- The states are equal, or differ in the stored edge time alone and are in plain search. -/
def AgreeUpToStaleEdge (L : Nat) (t u : State) : Prop :=
  u = t ∨ (u = t.withLastEdge L ∧ t.dec.PlainSearch)

theorem DecoderState.PlainSearch.withLastEdge {s : State} (h : s.dec.PlainSearch) (L : Nat) :
    (s.withLastEdge L).dec.PlainSearch :=
  ⟨h.searching, h.noCand, h.pinLow⟩

theorem takeEdge_withLastEdge (s : State) (L : Nat) :
    (s.withLastEdge L).takeEdge = s.takeEdge.withLastEdge L := by
  cases hs : s.pending with
  | nil => rw [takeEdge_of_pending_nil hs, takeEdge_of_pending_nil (s := s.withLastEdge L) hs]; rfl
  | cons e es => rw [takeEdge_pending hs, takeEdge_pending (s := s.withLastEdge L) hs]; rfl

theorem AgreeUpToStaleEdge.out_eq {L : Nat} {t u : State} (h : AgreeUpToStaleEdge L t u) :
    u.out = t.out := by
  obtain rfl | ⟨rfl, -⟩ := h <;> rfl

theorem AgreeUpToStaleEdge.takeEdge {L : Nat} {t u : State} (h : AgreeUpToStaleEdge L t u) :
    AgreeUpToStaleEdge L t.takeEdge u.takeEdge := by
  obtain rfl | ⟨rfl, hplain⟩ := h
  · exact .inl rfl
  · exact .inr ⟨takeEdge_withLastEdge t L, by rwa [takeEdge_dec]⟩

/-- The operation of an edge in plain search with the pin low. -/
def plainOp (e : PortIn) (c : DClass) : Instr :=
  if e.rst then .reset
  else if e.stepEn then (if e.level then .sRise c else .sHold false false c)
  else .nostep

theorem fetch_of_plainSearch {s : State} (h : s.dec.PlainSearch) :
    s.fetch = .ok (plainOp s.portIn s.dclass) := by
  have hop : decodeSearching false false s.levelIn s.dclass =
      if s.levelIn then .sRise s.dclass else .sHold false false s.dclass := by
    cases s.levelIn <;> rfl
  rw [fetch_eq, h.searching, h.noCand, h.pinLow, hop]
  rfl

/-- RESET and S.RISE overwrite the stored edge time; NOSTEP and S.HOLD carry it along and stay in plain search. -/
theorem exec_plainOp_withLastEdge {s t : State} (h : s.dec.PlainSearch) (L : Nat) {c : DClass}
    (c' : DClass) (ht : exec (plainOp s.portIn c) s = .next t) :
    ∃ u, exec (plainOp s.portIn c') (s.withLastEdge L) = .next u ∧ AgreeUpToStaleEdge L t u := by
  unfold plainOp at ht ⊢
  split_ifs at ht ⊢ with hrst hen hlevel
  · cases ht -- RESET
    exact ⟨_, rfl, .inl rfl⟩
  · cases ht -- S.RISE
    exact ⟨_, rfl, .inl rfl⟩
  · cases ht -- S.HOLD
    exact ⟨_, rfl, .inr ⟨rfl, h.searching, h.noCand, Bool.eq_false_iff.2 hlevel⟩⟩
  · cases ht -- NOSTEP
    exact ⟨_, rfl, .inr ⟨rfl, h⟩⟩

theorem step_withLastEdge_of_plainSearch {s t : State} (h : s.dec.PlainSearch) (L : Nat)
    (ht : step s = .next t) :
    ∃ u, step (s.withLastEdge L) = .next u ∧ AgreeUpToStaleEdge L t u := by
  obtain ⟨i, t₀, hi, ht₀, rfl⟩ := step_cases ht
  rw [fetch_of_plainSearch h] at hi
  cases hi
  obtain ⟨u, hu, hagree⟩ := exec_plainOp_withLastEdge h L (s.withLastEdge L).dclass ht₀
  exact ⟨u.takeEdge, step_of_exec (fetch_of_plainSearch (h.withLastEdge L)) hu, hagree.takeEdge⟩

/-- Settles O47: the operation is the same up to its class, which it does not read, and a difference in the stored edge
time goes at the next RESET or S.RISE. -/
theorem staleEdgeTimeInfluencesNothing : Obligations.StaleEdgeTimeInfluencesNothing := by
  intro s t L hs hc hp ht
  obtain ⟨u, hu, hagree⟩ := step_withLastEdge_of_plainSearch ⟨hs, hc, hp⟩ L ht
  refine ⟨u, hu, hagree.out_eq, hagree.imp_right ?_⟩
  rintro ⟨hu', hplain⟩
  exact ⟨hu', hplain.searching, hplain.noCand, hplain.pinLow⟩

end Sys2Proof.Machine
end

section
/-! RESET (70_reset_and_hazards.md R230, R231): when it is selected, and what it loads. -/

namespace Sys2Proof.Machine

/-- `rst` outranks every other bit of the selector. -/
theorem fetch_of_rst {s : State} (hrst : s.portIn.rst = true) : s.fetch = .ok .reset := by
  rw [fetch_eq, if_pos hrst]

theorem fetch_eq_reset_iff (s : State) : s.fetch = .ok .reset ↔ s.portIn.rst = true :=
  ⟨selects_of_fetch, fetch_of_rst⟩

theorem exec_reset (s : State) :
    exec .reset s = .next { s with dec := DecoderState.reset, out := Outputs.idle } := rfl

theorem pack_zero : TimePoint.zero.pack = 0 := by decide

/-- Settles O19: DecoderState and the outputs become constants, whose fields are read off; the cleared store is the one
that reads 0. -/
theorem resetLoadsZeroIntoEveryField : Obligations.ResetLoadsZeroIntoEveryField := by
  intro s
  obtain ⟨hparams, hpending, htick⟩ := exec_keeps_inputs (exec_reset s)
  exact ⟨fetch_eq_reset_iff s, _, exec_reset s,
    rfl, rfl, rfl, rfl, memRead_zero, rfl, rfl, rfl, rfl, rfl, -- the fields of DecoderState
    rfl, rfl, rfl, rfl, rfl, pack_zero, -- the outputs
    hparams, hpending, htick, reset_dec.symm⟩

end Sys2Proof.Machine
end
